-- ==== Sys2Proof/Word.lean ====
section
/-! DEFINITION. The word types of the hardware and the records its data formats are made of
(spec/00_scope.md R9, R10; spec/30_encoding.md R91, R93, R94, R110). -/

namespace Sys2Proof

/-- The unit of every host access: one 64-bit word (R60). -/
abbrev Word := BitVec 64

/-- One colour channel, DXS's `u8` (R94). -/
abbrev Channel := BitVec 8

/-- A host access as the bit string `T[100:0]` (R110). -/
abbrev Record := BitVec 101

/-- DXS's `Color`, a triple of three `u8` channels (R12, R94). -/
structure Color where
  r : Channel
  g : Channel
  b : Channel
deriving DecidableEq, Repr

/-- DXS's `PackedBlock`: two RGB565 endpoints and sixteen 2-bit codes (R91). -/
structure PackedBlock where
  endpointA : BitVec 16
  endpointB : BitVec 16
  indices : BitVec 32
deriving DecidableEq, Repr

/-- DXS's `DecodedBlock`: sixteen Colors, slot `i` being column `i % 4` of row `i / 4` (R135). -/
abbrev DecodedBlock := Vector Color 16

end Sys2Proof
end

