-- ==== Sys2Proof/Syntax.lean ====
section
/-! DEFINITION. The instructions: one constructor per row of spec/opcode_table.json.

Every instruction is one host access (R14, R60). The six commands are the host writes to register CMD
whose data is a word of the opcode map (R96, R100); `hwr` and `hrd` are every other host access. -/

namespace Sys2Proof

/-- The rows of the opcode table. -/
inductive Instr where
  /-- `UNPACK565 imm16` (R120): widen one RGB565 value into COLOR. -/
  | unpack565 (imm16 : BitVec 16)
  /-- `DECBLK` (R138): decode the PackedBlock in BLK into TEX0 to TEX15. -/
  | decblk
  /-- `DECMIP` (R140): decode the mip level in PM into BS. -/
  | decmip
  /-- `PSNR a, b` (R150): compare two blocks of BS. -/
  | psnr (a b : BitVec 24)
  /-- `ANALYZE` (R170): build the similarity report and the histogram. -/
  | analyze
  /-- `SRST` (R190): reset. -/
  | srst
  /-- `HWR(space, off, data)` (R60, R65): the host writes one word. -/
  | hwr (space : BitVec 4) (off : BitVec 32) (data : Word)
  /-- `HRD(space, off)` (R60, R64): the host reads one word. The record's data bits are ignored (R110). -/
  | hrd (space : BitVec 4) (off : BitVec 32)
deriving DecidableEq, Repr

end Sys2Proof
end

