-- ==== Sys2Proof/Decode.lean ====
section
/-! DEFINITION. The decoder of host access records and command words, and the encoder beside it
(spec/30_encoding.md R96 to R100, R110, R112, R113). -/

namespace Sys2Proof

/-! ## The opcode map (R100) -/

/-- One row of the opcode map: a word `w` is the row's command exactly when `w & mask == pattern`. -/
structure OpcodeRow where
  mnemonic : String
  mask : Word
  pattern : Word
deriving DecidableEq, Repr

/-- The test of R100, `w & mask == match`. -/
def OpcodeRow.accepts (row : OpcodeRow) (w : Word) : Bool := w &&& row.mask == row.pattern

/-- R100, row UNPACK565 (format V). -/
def unpack565Row : OpcodeRow := ⟨"UNPACK565", 0xFFFFFFFFFF0000FF, 0x0000000000000001⟩
/-- R100, row DECBLK (format N). -/
def decblkRow : OpcodeRow := ⟨"DECBLK", 0xFFFFFFFFFFFFFFFF, 0x0000000000000002⟩
/-- R100, row DECMIP (format N). -/
def decmipRow : OpcodeRow := ⟨"DECMIP", 0xFFFFFFFFFFFFFFFF, 0x0000000000000003⟩
/-- R100, row PSNR (format P). -/
def psnrRow : OpcodeRow := ⟨"PSNR", 0xFF000000000000FF, 0x0000000000000004⟩
/-- R100, row ANALYZE (format N). -/
def analyzeRow : OpcodeRow := ⟨"ANALYZE", 0xFFFFFFFFFFFFFFFF, 0x0000000000000005⟩
/-- R100, row SRST (format N). -/
def srstRow : OpcodeRow := ⟨"SRST", 0xFFFFFFFFFFFFFFFF, 0x000000000000000F⟩

/-- The whole opcode map, in the spec's order (R100). -/
def opcodeMap : List OpcodeRow := [unpack565Row, decblkRow, decmipRow, psnrRow, analyzeRow, srstRow]

/-! ## Command words (R96 to R98) -/

/-- The operation a legal command word asks for, with its operands. -/
inductive Command where
  | unpack565 (imm16 : BitVec 16)
  | decblk
  | decmip
  | psnr (a b : BitVec 24)
  | analyze
  | srst
deriving DecidableEq, Repr

/-- Why a word is not a command. -/
inductive DecodeError where
  /-- The word matches no row of the opcode map: an illegal command word (R97). The machine then raises
  the error IllegalCommand (R200), so nothing stops: safe. -/
  | illegalCommand
deriving DecidableEq, Repr

/-- `imm16 = word[23:8]` (R98). -/
def commandImm16 (w : Word) : BitVec 16 := w.extractLsb' 8 16
/-- `a = word[31:8]` (R98). -/
def commandA (w : Word) : BitVec 24 := w.extractLsb' 8 24
/-- `b = word[55:32]` (R98). -/
def commandB (w : Word) : BitVec 24 := w.extractLsb' 32 24

/-- Decode one command word by the opcode map; a word of no row is illegal (R97, R98, R100). -/
def decodeCommand (w : Word) : Except DecodeError Command :=
  if unpack565Row.accepts w then .ok (.unpack565 (commandImm16 w))
  else if decblkRow.accepts w then .ok .decblk
  else if decmipRow.accepts w then .ok .decmip
  else if psnrRow.accepts w then .ok (.psnr (commandA w) (commandB w))
  else if analyzeRow.accepts w then .ok .analyze
  else if srstRow.accepts w then .ok .srst
  else .error .illegalCommand

/-- The opcode-table row a command is. -/
def Command.toInstr : Command → Instr
  | .unpack565 imm16 => .unpack565 imm16
  | .decblk => .decblk
  | .decmip => .decmip
  | .psnr a b => .psnr a b
  | .analyze => .analyze
  | .srst => .srst

/-- Whether a word is a command, that is, matches a row of the opcode map (R97). -/
def isCommandWord (w : Word) : Bool := opcodeMap.any (·.accepts w)

/-! ## Host access records (R110) -/

/-- `kind = T[100]`: 1 for a write, 0 for a read. -/
def recordKind (t : Record) : Bool := t.getLsbD 100
/-- `space = T[99:96]`. -/
def recordSpace (t : Record) : BitVec 4 := t.extractLsb' 96 4
/-- `off = T[95:64]`. -/
def recordOff (t : Record) : BitVec 32 := t.extractLsb' 64 32
/-- `data = T[63:0]`. -/
def recordData (t : Record) : Word := t.extractLsb' 0 64

/-- Whether (space, off) is the address of register CMD (R24; 10_state.md section 2). -/
def isCmdAddress (space : BitVec 4) (off : BitVec 32) : Bool := space == 0 && off == 0

/-- Decode one host access. Every record is a well-formed access (R110). A write to CMD whose data is a
command word is that command (R112: `DECBLK` is `HWR(0, 0, 0x02)`); any other write is `hwr`. -/
def decode (t : Record) : Instr :=
  if recordKind t then
    if isCmdAddress (recordSpace t) (recordOff t) then
      match decodeCommand (recordData t) with
      | .ok c => c.toInstr
      | .error _ => .hwr (recordSpace t) (recordOff t) (recordData t)
    else .hwr (recordSpace t) (recordOff t) (recordData t)
  else .hrd (recordSpace t) (recordOff t)

/-- `kind :: space :: off :: data` (R110). -/
def accessRecord (kind : Bool) (space : BitVec 4) (off : BitVec 32) (data : Word) : Record :=
  BitVec.ofNat 101
    (data.toNat + off.toNat * 2 ^ 64 + space.toNat * 2 ^ 96 + kind.toNat * 2 ^ 100)

/-- The record of a table word: a row of at most 64 bits is a command word, carried by `HWR(0, 0, w)`
(R96, R112); a longer row is the 101-bit record itself (R110). -/
def recordOfTableWord (nbits w : Nat) : Record :=
  if nbits ≤ 64 then accessRecord true 0 0 (BitVec.ofNat 64 w)
  else BitVec.ofNat 101 w

/-- The instruction the decoder reads from a table word. `none` where the value does not fit its format or
the 64-bit word is illegal (R97). -/
def decodeTableWord (nbits w : Nat) : Option Instr :=
  if nbits ≤ 64 then
    if w < 2 ^ 64 && isCommandWord (BitVec.ofNat 64 w) then some (decode (recordOfTableWord nbits w))
    else none
  else if w < 2 ^ 101 then some (decode (recordOfTableWord nbits w))
  else none

/-! ## The encoder -/

/-- `op + (A << 8) + (B << 32)`, with `Z = 0` (R96, R112). -/
def commandWord (op : BitVec 8) (a b : BitVec 24) : Word :=
  BitVec.ofNat 64 (op.toNat + a.toNat * 2 ^ 8 + b.toNat * 2 ^ 32)

/-- The command word of a command (R96, R100). -/
def encodeCommand : Command → Word
  | .unpack565 imm16 => commandWord 0x01 (imm16.setWidth 24) 0
  | .decblk => commandWord 0x02 0 0
  | .decmip => commandWord 0x03 0 0
  | .psnr a b => commandWord 0x04 a b
  | .analyze => commandWord 0x05 0 0
  | .srst => commandWord 0x0F 0 0

/-- The record of a command: a write of its word to CMD (R112). -/
def commandRecord (c : Command) : Record := accessRecord true 0 0 (encodeCommand c)

/-- The record of an instruction (R110, R112). A read carries zero data bits. -/
def encode : Instr → Record
  | .unpack565 imm16 => commandRecord (.unpack565 imm16)
  | .decblk => commandRecord .decblk
  | .decmip => commandRecord .decmip
  | .psnr a b => commandRecord (.psnr a b)
  | .analyze => commandRecord .analyze
  | .srst => commandRecord .srst
  | .hwr space off data => accessRecord true space off data
  | .hrd space off => accessRecord false space off 0

/-! ## Pseudo-instructions (R113) -/

/-- The PackedBlock word of three field values, `ea + (eb << 16) + (idx << 32)` (R91). -/
def packedWord (blk : PackedBlock) : Word :=
  BitVec.ofNat 64 (blk.endpointA.toNat + blk.endpointB.toNat * 2 ^ 16 + blk.indices.toNat * 2 ^ 32)

/-- `LDBLK ea, eb, idx`: write BLK. -/
def asmLdblk (blk : PackedBlock) : List Instr := [.hwr 0 3 (packedWord blk)]
/-- `LDPM i, ea, eb, idx`: write `PM[i]`. -/
def asmLdpm (i : BitVec 32) (blk : PackedBlock) : List Instr := [.hwr 1 i (packedWord blk)]
/-- `LDTEX k, t, r, g, b`: write `BS[16k+t]`. DESIGN CHOICE (notes/assumptions/23): R113 gives `k` and `t` no range;
here they are 32-bit numbers and the offset `16k+t` wraps at 2^32. -/
def asmLdtex (k t : BitVec 32) (c : Color) : List Instr :=
  [.hwr 2 (16 * k + t) (BitVec.ofNat 64 (c.r.toNat + c.g.toNat * 2 ^ 8 + c.b.toNat * 2 ^ 16))]
/-- `SETMIP w, h, len`: write WIDTH, HEIGHT, BUFLEN. -/
def asmSetmip (w h len : Word) : List Instr := [.hwr 0 5 w, .hwr 0 6 h, .hwr 0 7 len]
/-- `SETCOL n, bpr`: write NBLK, BPR. -/
def asmSetcol (n bpr : Word) : List Instr := [.hwr 0 8 n, .hwr 0 9 bpr]

end Sys2Proof
end

