-- ==== Sys2Proof/Machine/Binary64.lean ====
section
/-! DEFINITION. Binary64 patterns: the number a pattern denotes, the IEEE 754 comparisons, rounding to
the nearest integer, and what R156 asks of the logarithm unit PSNRCH
(spec/00_scope.md R11; spec/42_psnr.md R152 to R158; spec/43_analyze.md R175). -/

namespace Sys2Proof.Machine

/-- Bit 63, the sign (R11). -/
def binary64Sign (p : Word) : Bool := p.getLsbD 63
/-- Bits 62:52, the biased exponent (R11). -/
def binary64Exponent (p : Word) : BitVec 11 := p.extractLsb' 52 11
/-- Bits 51:0, the fraction (R11). -/
def binary64Fraction (p : Word) : BitVec 52 := p.extractLsb' 0 52

/-- The magnitude of a finite pattern: `1.fraction * 2^(exponent - 1023)`, and `0.fraction * 2^-1022` where
the exponent field is 0. A pattern with exponent field 2047 (an infinity or a NaN) denotes no number; the
hardware never holds one (R11, R158) and no rule reads its value. -/
def binary64Magnitude (p : Word) : ℚ :=
  let e := (binary64Exponent p).toNat
  let f := (binary64Fraction p).toNat
  if e = 0 then (f : ℚ) * (2 : ℚ) ^ (-1074 : ℤ)
  else ((2 ^ 52 + f : ℕ) : ℚ) * (2 : ℚ) ^ ((e : ℤ) - 1075)

/-- `val(p)` of R156: the number a finite pattern denotes. -/
def binary64Val (p : Word) : ℚ :=
  if binary64Sign p then -binary64Magnitude p else binary64Magnitude p

/-- IEEE 754 `<` on finite patterns (R11). -/
def binary64Lt (p q : Word) : Bool := binary64Val p < binary64Val q
/-- IEEE 754 `>=` on finite patterns (R11). -/
def binary64Ge (p q : Word) : Bool := binary64Val q ≤ binary64Val p
/-- The binary64 minimum of two patterns that are no NaN (R155). -/
def binary64Min (p q : Word) : Word := if binary64Lt q p then q else p

/-- A positive normal pattern: sign 0 and an exponent field from 1 to 2046 (R156 P4). -/
def isPositiveNormal (p : Word) : Bool :=
  !binary64Sign p && binary64Exponent p != 0 && binary64Exponent p != 2047

/-- A finite pattern: exponent field below 2047 (R11). -/
def isFinite64 (p : Word) : Bool := binary64Exponent p != 2047

/-- `PSNR_INF`, the largest finite binary64, standing for DXS's +infinity (R154). -/
def psnrInf : Word := 0x7FEFFFFFFFFFFFFF
/-- `PSNR_NEG`, the most negative finite binary64, the start value of the maximum tracker (00_scope.md
section 4; R173). -/
def psnrNeg : Word := 0xFFEFFFFFFFFFFFFF

/-- Nearest integer, halves away from zero (R175). -/
def roundHalfAway (v : ℚ) : ℤ := if 0 ≤ v then ⌊v + 1 / 2⌋ else -⌊-v + 1 / 2⌋

/-- `bucket(p)`: round to the nearest integer and clamp to 0..51 (R175). -/
def bucket (p : Word) : Nat := (max 0 (min 51 (roundHalfAway (binary64Val p)))).toNat

/-- The largest channel SSE, `16 * 255^2` (R35, R151). -/
def sseMax : Nat := 1040400

/-- The properties P1 to P4 that R156 gives the parameter PSNRCH, each under its name. -/
structure IsPsnrUnit (f : Nat → Word) : Prop where
  /-- P1: within 2^-30 of the exact value. -/
  accuracy : ∀ s, 1 ≤ s → s ≤ sseMax →
    |(binary64Val (f s) : ℝ) - 10 * Real.logb 10 ((sseMax : ℝ) / (s : ℝ))| ≤ (2 : ℝ) ^ (-30 : ℤ)
  /-- P2: strictly decreasing. -/
  decreasing : ∀ s s', 1 ≤ s → s < s' → s' ≤ sseMax → binary64Val (f s') < binary64Val (f s)
  /-- P3: +0.0 at the largest SSE. -/
  zero : f sseMax = 0
  /-- P4: +0.0 or a positive normal pattern, and below 61. -/
  kind : ∀ s, 1 ≤ s → s ≤ sseMax → (f s = 0 ∨ isPositiveNormal (f s) = true) ∧ binary64Val (f s) < 61

/-- `RN`: `p` is `x` rounded to nearest, ties to even, over the finite patterns of sign 0 (R157). -/
def RoundsTo (x : ℝ) (p : Word) : Prop :=
  isFinite64 p = true ∧ binary64Sign p = false ∧
    ∀ q : Word, isFinite64 q = true → binary64Sign q = false →
      |(binary64Val p : ℝ) - x| < |(binary64Val q : ℝ) - x| ∨
        (|(binary64Val p : ℝ) - x| = |(binary64Val q : ℝ) - x| ∧ (q = p ∨ p.getLsbD 0 = false))

/-- R157's reference instance `PSNRCH_ref`: one division, one correctly rounded logarithm, one
multiplication. It is one admissible PSNRCH; the model fixes none (R8). -/
def IsPsnrchRef (f : Nat → Word) : Prop :=
  ∀ s, 1 ≤ s → s ≤ sseMax → ∃ q l : Word,
    RoundsTo (65025 / ((s : ℝ) / 16)) q ∧
    RoundsTo (Real.logb 10 (binary64Val q)) l ∧
    RoundsTo (10 * (binary64Val l : ℝ)) (f s)

end Sys2Proof.Machine
end

