-- ==== Sys2Proof/Machine/PsnrGrid.lean ====
section
/-! DEFINITION. One admissible PSNRCH, to show that the properties P1 to P4 of R156 can be met together:
the exact value truncated to a multiple of 2^-31. Config.lean needs it only so that a unit exists; no
meaning computes with it, and no statement can tell it from any other admissible unit. -/

namespace Sys2Proof.Machine

/-- The largest `n` up to `bound` with `10^n * s^k <= sseMax^k`: `k * log10(sseMax / s)` truncated. -/
def gridIndex (k bound s : Nat) : Nat :=
  Nat.findGreatest (fun n => 10 ^ n * s ^ k ≤ sseMax ^ k) bound

/-- The binary64 pattern of `n / 2^31`, for `n` below 2^53. -/
def gridPattern (n : Nat) : Word :=
  if n = 0 then 0
  else BitVec.ofNat 64 ((Nat.log2 n + 992) * 2 ^ 52 + (n - 2 ^ Nat.log2 n) * 2 ^ (52 - Nat.log2 n))

/-- The truncated logarithm unit over a grid of `1 / j`. -/
def gridUnit (j s : Nat) : Word := gridPattern (gridIndex (10 * j) (61 * j) s)

theorem gridIndex_le (k bound s : Nat) : gridIndex k bound s ≤ bound := Nat.findGreatest_le bound

theorem gridIndex_spec {k bound s : Nat} (hs : s ≤ sseMax) :
    10 ^ gridIndex k bound s * s ^ k ≤ sseMax ^ k := by
  have h0 : (fun n => 10 ^ n * s ^ k ≤ sseMax ^ k) 0 := by
    simpa using Nat.pow_le_pow_left hs k
  exact Nat.findGreatest_spec (P := fun n => 10 ^ n * s ^ k ≤ sseMax ^ k) (Nat.zero_le bound) h0

theorem gridIndex_succ {k bound s : Nat} (h : gridIndex k bound s < bound) :
    sseMax ^ k < 10 ^ (gridIndex k bound s + 1) * s ^ k := by
  have := Nat.findGreatest_is_greatest (P := fun n => 10 ^ n * s ^ k ≤ sseMax ^ k)
    (Nat.lt_succ_self (gridIndex k bound s)) h
  simpa using this

theorem gridIndex_lt {j s : Nat} (hj : 0 < j) (h1 : 1 ≤ s) (hs : s ≤ sseMax) :
    gridIndex (10 * j) (61 * j) s < 61 * j := by
  refine lt_of_le_of_ne (gridIndex_le _ _ _) fun h => ?_
  have h2 := gridIndex_spec (k := 10 * j) (bound := 61 * j) hs
  rw [h, pow_mul, pow_mul, pow_mul] at h2
  have h3 : (sseMax ^ 10) ^ j < (10 ^ 61) ^ j := Nat.pow_lt_pow_left (by decide) (by omega)
  have h4 : 1 ≤ (s ^ 10) ^ j := Nat.one_le_pow _ _ (Nat.pow_pos h1)
  exact absurd h2 (not_le.2 (lt_of_lt_of_le h3 (Nat.le_mul_of_pos_right _ h4)))

theorem gridPattern_val {n : Nat} (hn : n < 2 ^ 53) :
    binary64Val (gridPattern n) = (n : ℚ) / 2 ^ 31 ∧ binary64Sign (gridPattern n) = false ∧
      (gridPattern n = 0 ∨ isPositiveNormal (gridPattern n) = true) := by
  by_cases h0 : n = 0
  · subst h0; exact ⟨by simp [gridPattern, binary64Val, binary64Magnitude, binary64Exponent, binary64Fraction],
      by decide, .inl rfl⟩
  set e := Nat.log2 n with he
  have hlo : 2 ^ e ≤ n := Nat.log2_self_le h0
  have hhi : n < 2 ^ (e + 1) := Nat.lt_log2_self
  have he52 : e ≤ 52 := by
    by_contra h
    have : 2 ^ 53 ≤ 2 ^ e := Nat.pow_le_pow_right (by decide) (by omega)
    omega
  set f := (n - 2 ^ e) * 2 ^ (52 - e) with hf
  have hpow : 2 ^ e * 2 ^ (52 - e) = 2 ^ 52 := by rw [← pow_add]; congr 1; omega
  have hflt : f < 2 ^ 52 := by
    rw [hf, ← hpow]; apply Nat.mul_lt_mul_of_pos_right _ (by positivity)
    rw [pow_succ] at hhi; omega
  have hp : gridPattern n = BitVec.ofNat 64 ((e + 992) * 2 ^ 52 + f) := by
    simp [gridPattern, h0, he, hf]
  have hnat : (gridPattern n).toNat = (e + 992) * 2 ^ 52 + f := by
    rw [hp, BitVec.toNat_ofNat, Nat.mod_eq_of_lt]; omega
  have hsign : binary64Sign (gridPattern n) = false := by
    unfold binary64Sign
    rw [← BitVec.testBit_toNat, hnat]
    exact Nat.testBit_lt_two_pow (by omega)
  have hexp : (binary64Exponent (gridPattern n)).toNat = e + 992 := by
    simp only [binary64Exponent, BitVec.extractLsb'_toNat, hnat, Nat.shiftRight_eq_div_pow]
    omega
  have hfrac : (binary64Fraction (gridPattern n)).toNat = f := by
    simp only [binary64Fraction, BitVec.extractLsb'_toNat, hnat, Nat.shiftRight_eq_div_pow]
    omega
  refine ⟨?_, hsign, .inr ?_⟩
  · have hm : 2 ^ 52 + f = n * 2 ^ (52 - e) := by
      rw [hf, Nat.sub_mul, hpow]
      have : 2 ^ 52 ≤ n * 2 ^ (52 - e) := by rw [← hpow]; exact Nat.mul_le_mul_right _ hlo
      omega
    simp only [binary64Val, hsign, binary64Magnitude, hexp, hfrac, hm]
    have hz : ((e + 992 : ℕ) : ℤ) - 1075 = -((52 - e : ℕ) : ℤ) + (-31 : ℤ) := by omega
    rw [if_neg (by simp), if_neg (by omega), hz, zpow_add₀ (by norm_num), zpow_neg, zpow_natCast]
    push_cast
    field_simp
  · have hne (c : BitVec 11) (hc : c.toNat ≠ e + 992) : binary64Exponent (gridPattern n) ≠ c := by
      intro h; rw [← h, hexp] at hc; exact hc rfl
    simp only [isPositiveNormal, hsign, Bool.not_false, Bool.true_and, Bool.and_eq_true, bne_iff_ne]
    exact ⟨hne 0 (by simp), hne 2047 (by simp; omega)⟩

/-- `n <= k * log10(sseMax / s) < n + 1` for the grid index `n`. -/
theorem gridIndex_log {j s : Nat} (hj : 0 < j) (h1 : 1 ≤ s) (hs : s ≤ sseMax) :
    (gridIndex (10 * j) (61 * j) s : ℝ) ≤ (10 * j : ℕ) * Real.logb 10 ((sseMax : ℝ) / s) ∧
      ((10 * j : ℕ) : ℝ) * Real.logb 10 ((sseMax : ℝ) / s) < gridIndex (10 * j) (61 * j) s + 1 := by
  set n := gridIndex (10 * j) (61 * j) s with hn
  have hspos : (0 : ℝ) < s := by exact_mod_cast h1
  have hM : (0 : ℝ) < sseMax := by norm_num [sseMax]
  have hx : (0 : ℝ) < (sseMax : ℝ) / s := by positivity
  have key : ((10 * j : ℕ) : ℝ) * Real.logb 10 ((sseMax : ℝ) / s)
      = Real.logb 10 (((sseMax : ℝ) / s) ^ (10 * j)) := by
    rw [Real.logb_pow]
  rw [key]
  have hlo : (10 : ℝ) ^ n ≤ ((sseMax : ℝ) / s) ^ (10 * j) := by
    rw [div_pow, le_div_iff₀ (by positivity)]
    exact_mod_cast gridIndex_spec (k := 10 * j) (bound := 61 * j) hs
  have hhi : ((sseMax : ℝ) / s) ^ (10 * j) < (10 : ℝ) ^ (n + 1) := by
    rw [div_pow, div_lt_iff₀ (by positivity)]
    exact_mod_cast gridIndex_succ (gridIndex_lt hj h1 hs)
  constructor
  · rw [Real.le_logb_iff_rpow_le (by norm_num) (by positivity)]
    exact_mod_cast hlo
  · rw [Real.logb_lt_iff_lt_rpow (by norm_num) (by positivity)]
    exact_mod_cast hhi

theorem gridIndex_anti {j s s' : Nat} (hj : sseMax ≤ j) (h1 : 1 ≤ s) (h : s < s') (hs : s' ≤ sseMax) :
    gridIndex (10 * j) (61 * j) s' < gridIndex (10 * j) (61 * j) s := by
  have hj0 : 0 < j := lt_of_lt_of_le (by decide) hj
  have h2 := gridIndex_spec (k := 10 * j) (bound := 61 * j) hs
  have hsucc := gridIndex_succ (gridIndex_lt hj0 h1 (h.le.trans hs))
  by_contra hcon
  push Not at hcon
  set n := gridIndex (10 * j) (61 * j) s
  set n' := gridIndex (10 * j) (61 * j) s'
  have hgap : 10 * s ^ (10 * j) ≤ s' ^ (10 * j) := by
    have hb : (1 : ℚ) + (10 * j : ℕ) * (1 / s) ≤ (1 + 1 / s) ^ (10 * j) :=
      one_add_mul_le_pow (by have : (0 : ℚ) ≤ 1 / s := by positivity
                             linarith) _
    have hs0 : (0 : ℚ) < s := by exact_mod_cast h1
    have h9 : (10 : ℚ) ≤ 1 + (10 * j : ℕ) * (1 / s) := by
      have : (1 : ℚ) ≤ j * (1 / s) := by
        rw [mul_one_div, le_div_iff₀ hs0]
        have : s ≤ j := by omega
        simpa using (by exact_mod_cast this : (s : ℚ) ≤ j)
      push_cast; nlinarith
    have h10 : ((1 : ℚ) + 1 / s) * s ≤ s' := by
      rw [add_mul, one_div, inv_mul_cancel₀ hs0.ne']
      have : s + 1 ≤ s' := h
      simpa using (by exact_mod_cast this : (s : ℚ) + 1 ≤ s')
    have h11 : (10 : ℚ) * s ^ (10 * j) ≤ s' ^ (10 * j) := by
      calc (10 : ℚ) * s ^ (10 * j) ≤ (1 + 1 / s) ^ (10 * j) * s ^ (10 * j) := by
            gcongr; exact h9.trans hb
        _ = ((1 + 1 / s) * s) ^ (10 * j) := by rw [mul_pow]
        _ ≤ _ := by gcongr
    exact_mod_cast h11
  have : 10 ^ (n + 1) * s ^ (10 * j) ≤ 10 ^ n' * s' ^ (10 * j) := by
    calc 10 ^ (n + 1) * s ^ (10 * j) = 10 ^ n * (10 * s ^ (10 * j)) := by ring
      _ ≤ 10 ^ n' * s' ^ (10 * j) := Nat.mul_le_mul (Nat.pow_le_pow_right (by decide) hcon) hgap
  omega

/-- R156: P1 to P4 can be met together. The grid is a variable, so that no power of it is ever computed. -/
theorem gridUnit_isPsnrUnit {j : Nat} (hj2 : j = 2 ^ 31) : IsPsnrUnit (gridUnit j) := by
  have hj : 0 < j := by rw [hj2]; decide
  have hM : sseMax ≤ j := by rw [hj2]; decide
  have h53 : 61 * j < 2 ^ 53 := by rw [hj2]; decide
  have hval {s : Nat} (h1 : 1 ≤ s) (hs : s ≤ sseMax) :
      binary64Val (gridUnit j s) = (gridIndex (10 * j) (61 * j) s : ℚ) / j ∧
        (gridUnit j s = 0 ∨ isPositiveNormal (gridUnit j s) = true) := by
    have h := gridPattern_val (lt_trans (gridIndex_lt hj h1 hs) h53)
    have hq : (2 : ℚ) ^ 31 = (j : ℚ) := by rw [hj2]; norm_num
    exact ⟨by rw [gridUnit, h.1, hq], h.2.2⟩
  have hjq : (0 : ℚ) < j := by exact_mod_cast hj
  refine ⟨fun s h1 hs => ?_, fun s s' h1 h hs => ?_, ?_, fun s h1 hs => ⟨(hval h1 hs).2, ?_⟩⟩
  · have hlog := gridIndex_log hj h1 hs
    rw [(hval h1 hs).1]
    generalize gridIndex (10 * j) (61 * j) s = n at hlog
    generalize Real.logb 10 ((sseMax : ℝ) / s) = x at hlog
    have hjr : (0 : ℝ) < j := by exact_mod_cast hj
    have hjv : (j : ℝ) * (2 : ℝ) ^ (-30 : ℤ) = 2 := by rw [hj2]; norm_num
    push_cast at hlog ⊢
    generalize (2 : ℝ) ^ (-30 : ℤ) = δ at hjv
    have hd : ((n : ℝ) / j - 10 * x) * j = n - 10 * j * x := by
      rw [sub_mul, div_mul_cancel₀ _ hjr.ne']; ring
    rw [abs_le]
    constructor <;> by_contra hc <;> push Not at hc <;>
      have := mul_lt_mul_of_pos_right hc hjr <;> linarith [hlog.1, hlog.2]
  · rw [(hval h1 (h.le.trans hs)).1, (hval (h1.trans h.le) hs).1]
    have := gridIndex_anti hM h1 h hs
    gcongr
  · have h := gridIndex_spec (k := 10 * j) (bound := 61 * j) (le_refl sseMax)
    have h0 : gridIndex (10 * j) (61 * j) sseMax = 0 := by
      by_contra hn
      have h2 : 0 < sseMax ^ (10 * j) := Nat.pow_pos (by decide)
      have h3 : 1 < 10 ^ gridIndex (10 * j) (61 * j) sseMax := Nat.one_lt_pow hn (by decide)
      exact absurd h (not_le.2 (lt_mul_of_one_lt_left h2 h3))
    rw [gridUnit, h0]; rfl
  · rw [(hval h1 hs).1, div_lt_iff₀ hjq]
    exact_mod_cast gridIndex_lt hj h1 hs

end Sys2Proof.Machine
end

