-- ==== Sys2Proof/Config.lean ====
section
/-! DEFINITION. What an implementation fixes and what the spec leaves open: the two open parameters of
spec/92_eei_decisions.md (NB_MAX, D8; PSNRCH, D14), the contents of memory that nothing has written, and the
report rows that fall out of the report (spec/93_implementation_defined.md U1). Each is an opaque constant: nothing
in Lean can evaluate it, so a claim about the model holds for every value that meets its constraint (R8). -/

namespace Sys2Proof

open Sys2Proof.Machine

/-- `NB_MAX - 1`, any number below 2^24. -/
opaque Config.nbMaxPred : Fin (2 ^ 24)

/-- `NB_MAX`, the capacity in blocks: any number from 1 to 2^24 (00_scope.md section 4; D8, U6). -/
def Config.nbMax : Nat := Config.nbMaxPred.val + 1

/-- The logarithm units R156 admits: the functions with P1 to P4. -/
abbrev PsnrUnit := { f : Nat → Word // IsPsnrUnit f }

/-- Some logarithm unit. Lean asks that the type have a member before it declares a constant of it; the
member is passed where the constant is used, and nothing connects the constant to it. -/
opaque Config.psnrUnit [Inhabited PsnrUnit] : PsnrUnit

/-- `PSNRCH`, the hardware's evaluation of `10 * log10(255^2 / mse)` as a function of the SSE, for an SSE
from 1 to 1040400 (R156; D14, U5). -/
def Config.psnrch (s : Nat) : Word :=
  (@Config.psnrUnit ⟨⟨gridUnit (2 ^ 31), gridUnit_isPsnrUnit rfl⟩⟩).val s

/-- What word `off` of PM holds while nothing has written it since the reset numbered `epoch` (U1). -/
opaque Config.unwrittenPm (epoch off : Nat) : Word

/-- What word `off` of BS holds while nothing has written it since the reset numbered `epoch` (U1). -/
opaque Config.unwrittenBs (epoch off : Nat) : BitVec 24

/-- What word `off` of RPT holds while nothing has written it since the reset numbered `epoch` (U1). -/
opaque Config.unwrittenRpt (epoch off : Nat) : Word

/-- What word `off` of RPT holds once the ANALYZE that completed after `report` others has left its row at or above
NRPT, where a longer report had written `old` (R44, U1; notes/assumptions/12). R170's hardware, which leaves the row
as it was, is the value `old`. -/
opaque Config.retiredRpt (report off : Nat) (old : Word) : Word

/-- `1 <= NB_MAX` (00_scope.md section 4). -/
theorem Config.one_le_nbMax : 1 ≤ Config.nbMax := Nat.le_add_left 1 _

/-- `NB_MAX <= 2^24` (00_scope.md section 4). -/
theorem Config.nbMax_le : Config.nbMax ≤ 2 ^ 24 := Config.nbMaxPred.isLt

/-- PSNRCH has the properties P1 to P4 (R156). -/
theorem Config.psnrch_isPsnrUnit : IsPsnrUnit Config.psnrch :=
  (@Config.psnrUnit ⟨⟨gridUnit (2 ^ 31), gridUnit_isPsnrUnit rfl⟩⟩).property

end Sys2Proof
end

