-- ==== Sys2Proof/Machine/State.lean ====
section
/-! DEFINITION. The state of the machine, the state after a reset, and the ways a step could stop
(spec/10_state.md; spec/70_reset_and_hazards.md R230). -/

namespace Sys2Proof.Machine

/-- A memory of `w`-bit words: the words something has written since the last reset, as (word offset, word)
pairs with offsets strictly rising. An offset that is not listed holds what a reset left there, which the
spec leaves unspecified (R55, U1); Machine/Ops.lean says what it reads as. -/
abbrev Memory (w : Nat) := List (Nat × BitVec w)

/-- What the outside world does to the hardware: one host access (R60, R110), or the external reset event,
which may come between any two accesses (R230). -/
inductive HostEvent where
  | access (record : Record)
  | reset
deriving DecidableEq, Repr

/-- Everything the spec gives the machine (R16, 10_state.md sections 2 to 8), and four fields of the
model's own. CMD holds no state (R24) and CAP is the constant NB_MAX (R16, R26), so neither is a field. -/
structure State where
  /-- ERR, register 1: the first error's code since the last reset, or 0 (R25). -/
  err : BitVec 8
  /-- BLK, register 3: one PackedBlock, the operand of DECBLK (R27). -/
  blk : Word
  /-- COLOR, register 4: the result of UNPACK565 (R28). -/
  color : BitVec 24
  /-- WIDTH, register 5 (R30). -/
  width : BitVec 32
  /-- HEIGHT, register 6 (R31). -/
  height : BitVec 32
  /-- BUFLEN, register 7: the declared length of the raw buffer in bytes (R32). -/
  buflen : Word
  /-- NBLK, register 8: the number of blocks in the collection (R33). -/
  nblk : BitVec 32
  /-- BPR, register 9: blocks per row (R34). -/
  bpr : BitVec 32
  /-- SSE_R, register 10 (R35). -/
  sseR : BitVec 20
  /-- SSE_G, register 11 (R35). -/
  sseG : BitVec 20
  /-- SSE_B, register 12 (R35). -/
  sseB : BitVec 20
  /-- PSNRV, register 13: a binary64 pattern (R36). -/
  psnrv : Word
  /-- NRPT, register 14: rows of the report now in RPT (R37). -/
  nrpt : BitVec 32
  /-- TEX0 to TEX15, registers 16 to 31: the result of DECBLK (R29). -/
  tex : Vector (BitVec 24) 16
  /-- HIST, 52 counters (R47). -/
  hist : Vector (BitVec 32) 52
  /-- PM, the packed-block memory (R40). -/
  pm : Memory 64
  /-- BS, the block store, one texel a word (R41). -/
  bs : Memory 24
  /-- RPT, the report memory (R44). -/
  rpt : Memory 64
  /-- The model's own: how many resets the run has had. It selects the unspecified contents the last reset
  left in PM, BS and RPT (U1). DESIGN CHOICE, notes/assumptions/4. -/
  epoch : Nat
  /-- The model's own: how many times ANALYZE has completed. It selects the free words of the report rows that fall
  out of the report (R44, U1). DESIGN CHOICE, notes/assumptions/24. -/
  reports : Nat
  /-- The model's own: what the host will still do, the next event first (R14: a run is one sequence of host
  accesses). DESIGN CHOICE, notes/assumptions/6. -/
  pending : List HostEvent
  /-- The model's own: the response of the last host access, 64-bit read data for a read and nothing for a
  write (R14). DESIGN CHOICE, notes/assumptions/7. -/
  response : Option Word
deriving DecidableEq, Repr

/-- The machine just after a reset (R55, R230): every register and counter 0, nothing written in PM, BS and
RPT, and no host event known. -/
def State.reset : State where
  err := 0
  blk := 0
  color := 0
  width := 0
  height := 0
  buflen := 0
  nblk := 0
  bpr := 0
  sseR := 0
  sseG := 0
  sseB := 0
  psnrv := 0
  nrpt := 0
  tex := Vector.replicate 16 0
  hist := Vector.replicate 52 0
  pm := []
  bs := []
  rpt := []
  epoch := 0
  reports := 0
  pending := []
  response := none

/-- The ways a step can stop with a fault: none. Every possible access has a defined outcome, served, ignored
or an error (R212), and an error is a next state with ERR set (R204). -/
inductive Fault where
deriving DecidableEq, Repr

/-- The ways a step can be refused. -/
inductive Refusal where
  /-- Raised by an arm of `exec` whose instruction has no meaning yet; no arm raises it now. Safe: the model
  stops where the hardware goes on. -/
  | notModelled (mnemonic : String)
deriving DecidableEq, Repr

end Sys2Proof.Machine
end

