-- ==== Sys2Proof/Machine/Flags.lean ====
section
/-! DEFINITION. The only status of the hardware. It has no arithmetic flags or condition codes (R23); what a
failing access leaves behind is the error code in ERR, which halts the hardware
(spec/60_exceptions.md R200, R205). -/

namespace Sys2Proof.Machine

/-- The errors, by name (R200). -/
inductive ErrorCode where
  /-- The command word matches no row of the opcode map (R97). -/
  | illegalCommand
  /-- DECMIP with `BUFLEN != 8 * n` (R140). -/
  | invalidBlockData
  /-- ANALYZE with `NBLK == 0` (R171). -/
  | emptyInput
  /-- PSNR with a block number not below NBLK (R150), ANALYZE with `BPR == 0` (R171), or a host write whose
  data is wider than its destination (R66). -/
  | badOperand
  /-- DECMIP with `n > NB_MAX` (R140), or a host write of NBLK above NB_MAX (R66). -/
  | capacityExceeded
  /-- An unmapped address (R67) or a write to a read-only place (R68). -/
  | busError
deriving DecidableEq, Repr

/-- The value of `ERR[7:0]` for each error (R200). -/
def ErrorCode.code : ErrorCode → BitVec 8
  | .illegalCommand => 1
  | .invalidBlockData => 2
  | .emptyInput => 3
  | .badOperand => 4
  | .capacityExceeded => 5
  | .busError => 6

/-- The hardware is halted exactly when `ERR != 0` (R205). -/
def State.halted (s : State) : Bool := s.err != 0

end Sys2Proof.Machine
end

