-- ==== Sys2Proof/Machine/Ops.lean ====
section
/-! DEFINITION. The named operations every meaning is built from: reading and writing a word of memory,
raising an error (the hardware's only exception), leaving the halted condition by a reset, and the gate that
the halted condition puts before every write. -/

namespace Sys2Proof.Machine

/-! ## Memory -/

/-- The word something has written at `off` since the last reset, if anything has. -/
def Memory.read? {w : Nat} : Memory w → Nat → Option (BitVec w)
  | [], _ => none
  | (a, v) :: m, off => if a = off then some v else Memory.read? m off

/-- Write one word, keeping the offsets strictly rising (R65). -/
def Memory.write {w : Nat} : Memory w → Nat → BitVec w → Memory w
  | [], off, v => [(off, v)]
  | (a, u) :: m, off, v =>
    if off < a then (off, v) :: (a, u) :: m
    else if off = a then (off, v) :: m
    else (a, u) :: Memory.write m off v

/-- Write the `len` words `f 0`, `f 1`, … from offset `base` up, in rising order. -/
def Memory.writeRange {w : Nat} (m : Memory w) (base : Nat) : Nat → (Nat → BitVec w) → Memory w
  | 0, _ => m
  | len + 1, f => (Memory.writeRange m base len f).write (base + len) (f len)

/-- The canonical form: offsets strictly rising. An offset that is not listed has no written word, so no
listed word equals what an unlisted offset holds. -/
abbrev Memory.wf {w : Nat} (m : Memory w) : Prop := m.Pairwise (fun x y => x.1 < y.1)

/-- Every listed offset is below `bound`, the memory's size in words. -/
abbrev Memory.below {w : Nat} (m : Memory w) (bound : Nat) : Prop := ∀ c ∈ m, c.1 < bound

/-- `PM[i]` (R12, R40): what was last written there, or what the last reset left (R80, U1). -/
def State.pmWord (s : State) (i : Nat) : Word :=
  (s.pm.read? i).getD (Config.unwrittenPm s.epoch i)

/-- `BS[k][23:0]` (R12, R41). -/
def State.bsWord (s : State) (k : Nat) : BitVec 24 :=
  (s.bs.read? k).getD (Config.unwrittenBs s.epoch k)

/-- `RPT[k]` (R12, R44). -/
def State.rptWord (s : State) (k : Nat) : Word :=
  (s.rpt.read? k).getD (Config.unwrittenRpt s.epoch k)

/-- Byte `a` of the raw block byte buffer as PM holds it, `raw[8i + k] = PM[i][8k+7 : 8k]` (R70). -/
def State.rawByte (s : State) (a : Nat) : BitVec 8 :=
  (s.pmWord (a / 8)).extractLsb' (8 * (a % 8)) 8

/-- The PM word of eight bytes of the raw buffer, read as a little-endian integer (R70). -/
def wordOfBytes (bytes : Vector (BitVec 8) 8) : Word :=
  BitVec.ofNat 64 (bytes.foldr (fun byte high => byte.toNat + 2 ^ 8 * high) 0)

/-! ## Taking an error, and the way back -/

/-- `raise E` (R204): ERR takes the error's code if it holds none, and nothing else changes. The hardware
saves nothing, has no handler and goes nowhere. -/
def State.raise (s : State) (e : ErrorCode) : State :=
  if s.err = 0 then { s with err := e.code } else s

/-- The reset of R230, by SRST or by the external event, and the only way out of the halted condition (R206):
registers, TEX and HIST 0, and every word of PM, BS and RPT unspecified anew (U1). The number of reports, the host's
script and the response are not the hardware's and stay. -/
def State.performReset (s : State) : State :=
  { State.reset with
    epoch := s.epoch + 1, reports := s.reports, pending := s.pending, response := s.response }

/-- What every host write goes through first: while halted it is ignored, changing no state and raising
nothing (R205). SRST alone does not go through here. -/
def whenRunning (s : State) (body : State → State) : State :=
  if s.halted then s else body s

end Sys2Proof.Machine
end

