-- ==== Sys2Proof/Machine/Operands.lean ====
section
/-! DEFINITION. What an address names (the register map of 10_state.md section 2 and the address spaces of
R61), the host's reads and writes of it, and the data formats of spec/30_encoding.md section 1. -/

namespace Sys2Proof.Machine

/-! ## Registers and places -/

/-- The registers of the register map, by name (10_state.md section 2). -/
inductive Reg where
  | cmd | err | cap | blk | color | width | height | buflen | nblk | bpr
  | sseR | sseG | sseB | psnrv | nrpt
  | tex (t : Fin 16)
deriving DecidableEq, Repr

/-- The register at a word offset of space REG; offset 15 and all above 31 are unmapped (R67). -/
def Reg.ofOffset (off : Nat) : Option Reg :=
  match off with
  | 0 => some .cmd
  | 1 => some .err
  | 2 => some .cap
  | 3 => some .blk
  | 4 => some .color
  | 5 => some .width
  | 6 => some .height
  | 7 => some .buflen
  | 8 => some .nblk
  | 9 => some .bpr
  | 10 => some .sseR
  | 11 => some .sseG
  | 12 => some .sseB
  | 13 => some .psnrv
  | 14 => some .nrpt
  | 15 => none
  | t + 16 => if h : t < 16 then some (.tex ⟨t, h⟩) else none

/-- What a mapped address names (R61). -/
inductive Place where
  | reg (r : Reg)
  | pm (i : Nat)
  | bs (k : Nat)
  | rpt (k : Nat)
  | hist (k : Fin 52)
deriving DecidableEq, Repr

/-- The place at an address, `none` for an unmapped one (R61, R67). -/
def Place.locate (space : BitVec 4) (off : BitVec 32) : Option Place :=
  match space.toNat with
  | 0 => (Reg.ofOffset off.toNat).map .reg
  | 1 => if off.toNat < Config.nbMax then some (.pm off.toNat) else none
  | 2 => if off.toNat < 16 * Config.nbMax then some (.bs off.toNat) else none
  | 3 => if off.toNat < 8 * Config.nbMax then some (.rpt off.toNat) else none
  | 4 => if h : off.toNat < 52 then some (.hist ⟨off.toNat, h⟩) else none
  | _ => none

/-- A register's value zero-extended to 64 bits (R21); CMD reads 0 (R24) and CAP is NB_MAX (R26). -/
def State.readReg (s : State) : Reg → Word
  | .cmd => 0
  | .err => s.err.setWidth 64
  | .cap => BitVec.ofNat 64 Config.nbMax
  | .blk => s.blk
  | .color => s.color.setWidth 64
  | .width => s.width.setWidth 64
  | .height => s.height.setWidth 64
  | .buflen => s.buflen
  | .nblk => s.nblk.setWidth 64
  | .bpr => s.bpr.setWidth 64
  | .sseR => s.sseR.setWidth 64
  | .sseG => s.sseG.setWidth 64
  | .sseB => s.sseB.setWidth 64
  | .psnrv => s.psnrv
  | .nrpt => s.nrpt.setWidth 64
  | .tex t => s.tex[t].setWidth 64

/-- `MemRead` of a mapped address (R64). -/
def State.load (s : State) : Place → Word
  | .reg r => s.readReg r
  | .pm i => s.pmWord i
  | .bs k => (s.bsWord k).setWidth 64
  | .rpt k => s.rptWord k
  | .hist k => s.hist[k].setWidth 64

/-- The error of a host write to a register, if it has one: a read-only register (R68), then data that does
not fit (R66). -/
def Reg.writeError (data : Word) : Reg → Option ErrorCode
  | .cmd => none
  | .blk => none
  | .buflen => none
  | .width => if data.extractLsb' 32 32 = 0 then none else some .badOperand
  | .height => if data.extractLsb' 32 32 = 0 then none else some .badOperand
  | .bpr => if data.extractLsb' 32 32 = 0 then none else some .badOperand
  | .nblk =>
    if data.extractLsb' 32 32 = 0 then
      if (data.extractLsb' 0 32).toNat ≤ Config.nbMax then none else some .capacityExceeded
    else some .badOperand
  | .err => some .busError
  | .cap => some .busError
  | .color => some .busError
  | .sseR => some .busError
  | .sseG => some .busError
  | .sseB => some .busError
  | .psnrv => some .busError
  | .nrpt => some .busError
  | .tex _ => some .busError

/-- The error of a host write to a mapped address, if it has one (R63 steps 3 and 4; R66, R68). -/
def Place.writeError (data : Word) : Place → Option ErrorCode
  | .reg r => r.writeError data
  | .pm _ => none
  | .bs _ => if data.extractLsb' 24 40 = 0 then none else some .badOperand
  | .rpt _ => some .busError
  | .hist _ => some .busError

/-- `REG.NAME <- data` for a register the host may write (R65). The other registers never get here: CMD starts
a command and the rest are refused (`Reg.writeError`). -/
def State.writeReg (s : State) (data : Word) : Reg → State
  | .blk => { s with blk := data }
  | .width => { s with width := data.extractLsb' 0 32 }
  | .height => { s with height := data.extractLsb' 0 32 }
  | .buflen => { s with buflen := data }
  | .nblk => { s with nblk := data.extractLsb' 0 32 }
  | .bpr => { s with bpr := data.extractLsb' 0 32 }
  | .cmd => s
  | .err => s
  | .cap => s
  | .color => s
  | .sseR => s
  | .sseG => s
  | .sseB => s
  | .psnrv => s
  | .nrpt => s
  | .tex _ => s

/-- `MemWrite` of a mapped address that passed its checks (R65). RPT and HIST never get here. -/
def State.store (s : State) (data : Word) : Place → State
  | .reg r => s.writeReg data r
  | .pm i => { s with pm := s.pm.write i data }
  | .bs k => { s with bs := s.bs.write k (data.extractLsb' 0 24) }
  | .rpt _ => s
  | .hist _ => s

/-! ## Data formats -/

/-- `pack(c) = c.r + 2^8 * c.g + 2^16 * c.b` (R94). -/
def packColor (c : Color) : BitVec 24 :=
  BitVec.ofNat 24 (c.r.toNat + 2 ^ 8 * c.g.toNat + 2 ^ 16 * c.b.toNat)

/-- The Color a 24-bit Color word holds (R42, R94). -/
def colorOfWord (w : BitVec 24) : Color :=
  ⟨w.extractLsb' 0 8, w.extractLsb' 8 8, w.extractLsb' 16 8⟩

/-- The PackedBlock a word holds (R27, R91). -/
def blockOfWord (w : Word) : PackedBlock :=
  ⟨w.extractLsb' 0 16, w.extractLsb' 16 16, w.extractLsb' 32 32⟩

/-- `code(i) = indices[2i+1 : 2i]` (R92, R134). -/
def texelCode (indices : BitVec 32) (i : Nat) : BitVec 2 := indices.extractLsb' (2 * i) 2

/-- `blockAt(k)`: the DecodedBlock in `BS[16k] .. BS[16k+15]` (R42). -/
def State.blockAt (s : State) (k : Nat) : DecodedBlock :=
  Vector.ofFn fun t : Fin 16 => colorOfWord (s.bsWord (16 * k + t))

end Sys2Proof.Machine
end

