-- ==== Sys2Proof/Machine/Similarity.lean ====
section
/-! DEFINITION. The PSNR engine of the similarity unit: the difference accumulator, the infinity clamp, the
block PSNR, and the command PSNR (spec/42_psnr.md). -/

namespace Sys2Proof.Machine

/-- `d * d` for the signed difference `d` of two channels (R151). -/
def squaredDifference (x y : Channel) : Nat :=
  let d : Int := (x.toNat : Int) - y.toNat
  (d * d).toNat

/-- The three channels, each a lane of its own (R151). -/
inductive ColorChannel where
  | r | g | b
deriving DecidableEq, Repr

/-- One channel of a Color. -/
def Color.channel (ch : ColorChannel) (c : Color) : Channel :=
  match ch with
  | .r => c.r
  | .g => c.g
  | .b => c.b

/-- `sse.ch`, the sum of squared differences of one channel over the sixteen texel pairs (R151). -/
def channelSse (ch : ColorChannel) (a b : DecodedBlock) : Nat :=
  ((List.finRange 16).map fun i => squaredDifference (Color.channel ch a[i]) (Color.channel ch b[i])).sum

/-- `msse(a, b)`, the largest channel SSE (R159). -/
def msse (a b : DecodedBlock) : Nat :=
  max (max (channelSse .r a b) (channelSse .g a b)) (channelSse .b a b)

/-- `psnrch(s)`: PSNR_INF for a zero error, PSNRCH otherwise (R153). -/
def psnrch (s : Nat) : Word := if s = 0 then psnrInf else Config.psnrch s

/-- `psnr(a, b)`, the worst of the three channels, by binary64 minimum (R155). The meanings hold
`psnrch (msse a b)` instead, which R159 says is the same pattern. -/
def psnr (a b : DecodedBlock) : Word :=
  binary64Min
    (binary64Min (psnrch (channelSse .r a b)) (psnrch (channelSse .g a b)))
    (psnrch (channelSse .b a b))

/-- What PSNR writes for the two blocks it compares (R150, R159). -/
def State.withPsnr (s : State) (a b : DecodedBlock) : State :=
  { s with
    sseR := BitVec.ofNat 20 (channelSse .r a b)
    sseG := BitVec.ofNat 20 (channelSse .g a b)
    sseB := BitVec.ofNat 20 (channelSse .b a b)
    psnrv := psnrch (msse a b) }

/-- PSNR: both block numbers must be below NBLK (R150). -/
def execPsnr (a b : BitVec 24) (s : State) : Host.Outcome State Fault Refusal :=
  .next (whenRunning s fun s =>
    if s.nblk.toNat ≤ a.toNat ∨ s.nblk.toNat ≤ b.toNat then s.raise .badOperand
    else s.withPsnr (s.blockAt a.toNat) (s.blockAt b.toNat))

end Sys2Proof.Machine
end

