-- ==== Sys2Proof/Machine/Analyzer.lean ====
section
/-! DEFINITION. The block similarity analyzer: best-match tracking, the histogram, the report, and the command
ANALYZE (spec/43_analyze.md; row layout R95).

The rows are built twice. `reportRow` carries each PSNR as the integer SSE it comes from, as R159 and U14
allow; ANALYZE's meaning uses it. `rowByPsnr` is R172's pseudocode word for word, with binary64 comparisons. -/

namespace Sys2Proof.Machine

/-! ## The report row (R95) -/

/-- The fields of a report row. -/
structure ReportRow where
  minPsnr : Word
  maxPsnr : Word
  index : Nat
  best : Nat
  bpr : Nat
  bestSse : Nat
  worstSse : Nat
  paired : Bool
deriving DecidableEq, Repr

/-- `x` of block `i` (R176). -/
def blockX (bpr i : Nat) : Nat := i % bpr * 4
/-- `y` of block `i` (R176). -/
def blockY (bpr i : Nat) : Nat := i / bpr * 4

/-- Two u32 fields in one word, `low` in bits 31:0 (R95). -/
def pairWord (low high : Nat) : Word := BitVec.ofNat 64 (low % 2 ^ 32 + high % 2 ^ 32 * 2 ^ 32)

/-- Word `w` of a row (R95). -/
def ReportRow.word (row : ReportRow) : Nat → Word
  | 0 => row.minPsnr
  | 1 => row.maxPsnr
  | 2 => pairWord row.index row.best
  | 3 => pairWord (blockX row.bpr row.index) (blockY row.bpr row.index)
  | 4 => pairWord (blockX row.bpr row.best) (blockY row.bpr row.best)
  | 5 => BitVec.ofNat 64 (row.bestSse + row.worstSse * 2 ^ 32 + row.paired.toNat * 2 ^ 63)
  | _ => 0

/-! ## Best-match tracking on integers (R159, R172, R174) -/

/-- The running values of one row. `bestSse = none` is the start value PSNR_NEG of the maximum tracker, below
every PSNR; `worst = 0` is the start value PSNR_INF of the minimum tracker (R172). -/
structure Tracker where
  worst : Nat
  best : Nat
  bestSse : Option Nat
deriving DecidableEq, Repr

/-- `maxP` accepts a PSNR that is greater or equal, that is, an SSE that is less or equal (R159, R172). -/
def Tracker.accepts (t : Tracker) (m : Nat) : Bool :=
  match t.bestSse with
  | none => true
  | some b => m ≤ b

/-- One comparison, with block `j` at SSE `m`: a smaller PSNR replaces the minimum, a greater or equal one
replaces the maximum (R172, R174). -/
def Tracker.observe (t : Tracker) (j m : Nat) : Tracker where
  worst := if t.worst < m then m else t.worst
  best := if t.accepts m then j else t.best
  bestSse := if t.accepts m then some m else t.bestSse

/-- The trackers of row `i` after all comparisons with `j != i`, in ascending order of `j` (R172). -/
def trackRow (n : Nat) (sse : Nat → Nat → Nat) (i : Nat) : Tracker :=
  (List.range n).foldl (fun t j => if j = i then t else t.observe j (sse i j)) ⟨0, i, none⟩

/-- Row `i` of the report (R172, R173). -/
def reportRow (n bpr : Nat) (sse : Nat → Nat → Nat) (i : Nat) : ReportRow :=
  let t := trackRow n sse i
  { minPsnr := psnrch t.worst
    maxPsnr := (t.bestSse.map psnrch).getD psnrNeg
    index := i
    best := t.best
    bpr := bpr
    bestSse := t.bestSse.getD 0
    worstSse := t.worst
    paired := 2 ≤ n }

/-! ## The histogram (R175, R177) -/

/-- The table `T[k]` of R177. -/
def bucketBounds : Vector Nat 52 :=
  #v[1040400, 927257, 736546, 585059, 464729, 369147, 293224, 232916, 185012, 146960, 116734, 92725, 73654,
    58505, 46472, 36914, 29322, 23291, 18501, 14696, 11673, 9272, 7365, 5850, 4647, 3691,
    2932, 2329, 1850, 1469, 1167, 927, 736, 585, 464, 369, 293, 232, 185,
    146, 116, 92, 73, 58, 46, 36, 29, 23, 18, 14, 11, 9]

/-- `bucketS(m)`: 51 for 0, else the largest `k` with `m <= T[k]` (R177). -/
def bucketS (m : Nat) : Fin 52 :=
  if m = 0 then 51
  else (List.finRange 52).foldl (fun best k => if m ≤ bucketBounds[k] then k else best) 0

/-- `HIST[k] <- HIST[k] + 1` (R172). -/
def bumpCounter (h : Vector (BitVec 32) 52) (k : Fin 52) : Vector (BitVec 32) 52 :=
  h.set k (h[k] + 1)

/-- The histogram of a report: all counters cleared, then one increment a row if the rows are paired (R172,
R173). -/
def histogram (n : Nat) (bestSse : Nat → Nat) : Vector (BitVec 32) 52 :=
  (List.range n).foldl (fun h i => if 2 ≤ n then bumpCounter h (bucketS (bestSse i)) else h)
    (Vector.replicate 52 0)

/-! ## ANALYZE -/

/-- The SSE of a pair of blocks of the collection (R159, R172). -/
def State.pairSse (s : State) (i j : Nat) : Nat := msse (s.blockAt i) (s.blockAt j)

/-- Row `i` of the report ANALYZE builds from a state (R172). -/
def State.row (s : State) (i : Nat) : ReportRow := reportRow s.nblk.toNat s.bpr.toNat s.pairSse i

/-- What word `k` of RPT holds after an ANALYZE that leaves its row out of the report: a free value (R44, U1). -/
def State.retiredWord (s : State) (k : Nat) : Word := Config.retiredRpt s.reports k (s.rptWord k)

/-- A new report takes the place of the old one: HIST, the rows below NBLK, and NRPT (R172). The rows of a longer
old report that are now at or above NRPT become unspecified (R44, U1; notes/assumptions/12); every other word of RPT
stays. -/
def State.installReport (s : State) (hist : Vector (BitVec 32) 52) (row : Nat → ReportRow) : State :=
  { s with
    hist := hist
    rpt := (s.rpt.writeRange 0 (8 * s.nblk.toNat) fun k => (row (k / 8)).word (k % 8)).writeRange
      (8 * s.nblk.toNat) (8 * s.nrpt.toNat - 8 * s.nblk.toNat) fun k => s.retiredWord (8 * s.nblk.toNat + k)
    nrpt := s.nblk
    reports := s.reports + 1 }

/-- The report construction (R172). -/
def State.buildReport (s : State) : State :=
  s.installReport (histogram s.nblk.toNat fun i => (s.row i).bestSse) s.row

/-- ANALYZE: the two entry checks, then the report (R170, R171). -/
def execAnalyze (s : State) : Host.Outcome State Fault Refusal :=
  .next (whenRunning s fun s =>
    if s.nblk = 0 then s.raise .emptyInput
    else if s.bpr = 0 then s.raise .badOperand
    else s.buildReport)

/-! ## R172 word for word, with binary64 comparisons -/

/-- The five running variables of R172's loop over `j`. -/
structure PsnrTracker where
  minP : Word
  worst : Nat
  maxP : Word
  best : Nat
  bestS : Nat
deriving DecidableEq, Repr

/-- One turn of R172's loop, for a `j` other than `i`. -/
def PsnrTracker.observe (t : PsnrTracker) (j : Nat) (p : Word) (m : Nat) : PsnrTracker :=
  let t := if binary64Lt p t.minP then { t with minP := p, worst := m } else t
  if binary64Ge p t.maxP then { t with maxP := p, best := j, bestS := m } else t

/-- The running variables at the end of R172's loop over `j`, for row `i`. -/
def psnrTrackRow (n : Nat) (blocks : Nat → DecodedBlock) (i : Nat) : PsnrTracker :=
  (List.range n).foldl
    (fun t j =>
      if j ≠ i then t.observe j (psnr (blocks i) (blocks j)) (msse (blocks i) (blocks j)) else t)
    ⟨psnrInf, 0, psnrNeg, i, 0⟩

/-- Row `i` as R172 writes it. -/
def rowByPsnr (n bpr : Nat) (blocks : Nat → DecodedBlock) (i : Nat) : ReportRow :=
  let t := psnrTrackRow n blocks i
  { minPsnr := t.minP
    maxPsnr := t.maxP
    index := i
    best := t.best
    bpr := bpr
    bestSse := t.bestS
    worstSse := t.worst
    paired := 2 ≤ n }

/-- The histogram as R172 writes it: the bucket of the rounded binary64 `maxP` (R175). -/
def psnrHistogram (n : Nat) (blocks : Nat → DecodedBlock) : Vector (BitVec 32) 52 :=
  (List.range n).foldl
    (fun h i => if 2 ≤ n then bumpCounter h (Fin.ofNat 52 (bucket (psnrTrackRow n blocks i).maxP)) else h)
    (Vector.replicate 52 0)

/-- The report construction as R172 writes it. -/
def State.buildReportByPsnr (s : State) : State :=
  s.installReport (psnrHistogram s.nblk.toNat s.blockAt) (rowByPsnr s.nblk.toNat s.bpr.toNat s.blockAt)

end Sys2Proof.Machine
end

