-- ==== Sys2Proof/Machine/Decoder.lean ====
section
/-! DEFINITION. The decoder unit: the 565-colour unpacker, the palette interpolator, the texel mapper, and
the commands UNPACK565, DECBLK and DECMIP (spec/40_unpack565.md; spec/41_decode.md). -/

namespace Sys2Proof.Machine

/-! ## The pure functions -/

/-- A channel widened by a left shift with zero fill and clamped to 255 (R121, R122). -/
def shiftExpand (field shift : Nat) : Channel := BitVec.ofNat 8 (min 255 (field * 2 ^ shift))

/-- `unpack565(v)` (R121; fields R93). -/
def unpack565 (v : BitVec 16) : Color where
  r := shiftExpand (v.extractLsb' 11 5).toNat 3
  g := shiftExpand (v.extractLsb' 5 6).toNat 2
  b := shiftExpand (v.extractLsb' 0 5).toNat 3

/-- `(2 * p + q) / 3`, truncating (R132). -/
def mixThird (p q : Channel) : Channel := BitVec.ofNat 8 ((2 * p.toNat + q.toNat) / 3)

/-- `mixThird` channel by channel (R132). -/
def mixColor (p q : Color) : Color := ⟨mixThird p.r q.r, mixThird p.g q.g, mixThird p.b q.b⟩

/-- `palette(block)`: always four colours, whatever the order of the endpoints (R131 to R133, R135). -/
def palette (blk : PackedBlock) : Vector Color 4 :=
  let p0 := unpack565 blk.endpointA
  let p1 := unpack565 blk.endpointB
  #v[p0, p1, mixColor p0 p1, mixColor p1 p0]

/-- The palette entry a code selects (R135). -/
def paletteEntry (p : Vector Color 4) (code : BitVec 2) : Color := p[code.toNat]'code.isLt

/-- `decodeBlock(block)` (R130, R135). -/
def decodeBlock (blk : PackedBlock) : DecodedBlock :=
  Vector.ofFn fun i : Fin 16 => paletteEntry (palette blk) (texelCode blk.indices i)

/-- Blocks along one dimension: `max(4, d) / 4` (R139). -/
def gridCount (d : BitVec 32) : Nat := max 4 d.toNat / 4

/-- The block count of a mip level, `bcw * bch` (R139). -/
def gridBlocks (width height : BitVec 32) : Nat := gridCount width * gridCount height

/-- The position in the image of texel `t` of block `i`, with `bcw` blocks per row (R142). The hardware
computes no image position; the rule is the host's reading of the block order. -/
def texelPosition (bcw i t : Nat) : Nat × Nat := (i % bcw * 4 + t % 4, i / bcw * 4 + t / 4)

/-- The Color word DECMIP writes at offset `k` of BS: texel `k % 16` of block `k / 16` (R140). -/
def State.mipTexel (s : State) (k : Nat) : BitVec 24 :=
  packColor ((decodeBlock (blockOfWord (s.pmWord (k / 16))))[k % 16]'(Nat.mod_lt k (by decide)))

/-! ## The commands -/

/-- UNPACK565 (R120). -/
def execUnpack565 (imm16 : BitVec 16) (s : State) : Host.Outcome State Fault Refusal :=
  .next (whenRunning s fun s => { s with color := packColor (unpack565 imm16) })

/-- DECBLK (R138). -/
def execDecblk (s : State) : Host.Outcome State Fault Refusal :=
  .next (whenRunning s fun s =>
    let out := decodeBlock (blockOfWord s.blk)
    { s with tex := Vector.ofFn fun t : Fin 16 => packColor out[t] })

/-- What DECMIP does once its two checks have passed (R140). -/
def State.decodeMip (s : State) : State :=
  { s with
    bs := s.bs.writeRange 0 (16 * gridBlocks s.width s.height) s.mipTexel
    nblk := BitVec.ofNat 32 (gridBlocks s.width s.height)
    bpr := BitVec.ofNat 32 (gridCount s.width) }

/-- DECMIP: the length check, the capacity check, then the decode (R140, R141). -/
def execDecmip (s : State) : Host.Outcome State Fault Refusal :=
  .next (whenRunning s fun s =>
    if s.buflen.toNat ≠ 8 * gridBlocks s.width s.height then s.raise .invalidBlockData
    else if Config.nbMax < gridBlocks s.width s.height then s.raise .capacityExceeded
    else s.decodeMip)

end Sys2Proof.Machine
end

