-- ==== Sys2Proof/Machine/System.lean ====
section
/-! DEFINITION. The system command SRST (spec/44_system.md). -/

namespace Sys2Proof.Machine

/-- SRST: a full reset, halted or not (R190, R205). -/
def execSrst (s : State) : Host.Outcome State Fault Refusal := .next s.performReset

end Sys2Proof.Machine
end

