-- ==== Sys2Proof/Machine/HostPort.lean ====
section
/-! DEFINITION. The host port: the host's write and read of one word, with their checks in order
(spec/20_memory.md R60 to R68; spec/60_exceptions.md R203 to R205). -/

namespace Sys2Proof.Machine

/-- Perform a legal command (R24). -/
def performCommand (c : Command) (s : State) : Host.Outcome State Fault Refusal :=
  match c with
  | .unpack565 imm16 => execUnpack565 imm16 s
  | .decblk => execDecblk s
  | .decmip => execDecmip s
  | .psnr a b => execPsnr a b s
  | .analyze => execAnalyze s
  | .srst => execSrst s

/-- A write to CMD that passed the access checks: decode the word and perform the command, or raise
IllegalCommand (R24, R97). -/
def issueCommand (data : Word) (s : State) : Host.Outcome State Fault Refusal :=
  match decodeCommand data with
  | .ok c => performCommand c s
  | .error .illegalCommand => .next (s.raise .illegalCommand)

/-- Whether a write is the SRST word to CMD, the one write that acts while halted (R205). -/
def isSrstWrite (space : BitVec 4) (off : BitVec 32) (data : Word) : Bool :=
  isCmdAddress space off && srstRow.accepts data

/-- A host write to a mapped place, while not halted: forbidden, then too wide, then performed (R63, R65). -/
def writePlace (p : Place) (data : Word) (s : State) : Host.Outcome State Fault Refusal :=
  match p.writeError data with
  | some e => .next (s.raise e)
  | none => if p = .reg .cmd then issueCommand data s else .next (s.store data p)

/-- HWR: ignored while halted unless it is SRST; otherwise unmapped addresses raise BusError and the rest is
the place's (R63, R65, R203, R205). -/
def execHwr (space : BitVec 4) (off : BitVec 32) (data : Word) (s : State) :
    Host.Outcome State Fault Refusal :=
  if s.halted then
    if isSrstWrite space off data then execSrst s else .next s
  else
    match Place.locate space off with
    | none => .next (s.raise .busError)
    | some p => writePlace p data s

/-- HRD: a mapped word is served, halted or not, and changes no state of the hardware; an unmapped address
returns 0 and, while not halted, raises BusError (R63, R64, R205). -/
def execHrd (space : BitVec 4) (off : BitVec 32) (s : State) : Host.Outcome State Fault Refusal :=
  match Place.locate space off with
  | some p => .next { s with response := some (s.load p) }
  | none => .next { (if s.halted then s else s.raise .busError) with response := some 0 }

end Sys2Proof.Machine
end

