-- ==== Sys2Proof/Machine/Dispatch.lean ====
section
/-! DEFINITION. The meaning of every instruction: one arm per constructor of Instr. -/

namespace Sys2Proof.Machine

def exec (i : Instr) (s : State) : Host.Outcome State Fault Refusal :=
  match i with
  | .unpack565 imm16 => Sys2Proof.Machine.execUnpack565 imm16 s
  | .decblk => Sys2Proof.Machine.execDecblk s
  | .decmip => Sys2Proof.Machine.execDecmip s
  | .psnr a b => Sys2Proof.Machine.execPsnr a b s
  | .analyze => Sys2Proof.Machine.execAnalyze s
  | .srst => Sys2Proof.Machine.execSrst s
  | .hwr space off data => Sys2Proof.Machine.execHwr space off data s
  | .hrd space off => Sys2Proof.Machine.execHrd space off s

end Sys2Proof.Machine
end

