-- ==== Sys2Proof/Machine/Step.lean ====
section
/-! DEFINITION. One transition: the next thing the host does (spec/00_scope.md R13, R14; spec/20_memory.md R60,
R80). The hardware has no program counter and fetches nothing (R22): its instructions are the host accesses, in
the order the host makes them. -/

namespace Sys2Proof.Machine

/-- The state in which an event is served: the event is off the host's script and the port shows no response
yet. -/
def State.takeEvent (s : State) (rest : List HostEvent) : State :=
  { s with pending := rest, response := none }

/-- One step: the next host access, or the external reset event (R230). With nothing from the host the hardware
waits (R111, R231): nothing changes. -/
def step (s : State) : Host.Outcome State Fault Refusal :=
  match s.pending with
  | [] => .next s
  | .reset :: rest => .next (s.takeEvent rest).performReset
  | .access t :: rest => exec (decode t) (s.takeEvent rest)

/-- The state with one access put at the head of the host's script, so that the next step serves it. -/
def State.withFetchWord (s : State) (nbits w : Nat) : State :=
  { s with pending := .access (recordOfTableWord nbits w) :: s.pending }

end Sys2Proof.Machine
end

