-- ==== Sys2Proof/Safety.lean ====
section
/-! DEFINITION. What a good run is, and the invariant every step keeps. -/

namespace Sys2Proof.Machine

/-- A run is good when `ERR == 0` in its final state (R246). -/
def State.good (s : State) : Bool := !s.halted

/-- A binary64 pattern that `psnr` can return: PSNR_INF or a PSNRCH value (R153, R158). -/
def IsPsnrValue (p : Word) : Prop := ∃ m, m ≤ sseMax ∧ p = psnrch m

/-- What word `w` of a row of the report looks like: a PSNR, a PSNR or PSNR_NEG, the zero fields zero (R95,
R158). -/
def reportWordForm (w : Nat) (v : Word) : Prop :=
  match w with
  | 0 => IsPsnrValue v
  | 1 => IsPsnrValue v ∨ v = psnrNeg
  | 5 => v.extractLsb' 20 12 = 0 ∧ v.extractLsb' 52 11 = 0
  | 6 => v = 0
  | 7 => v = 0
  | _ => True

/-- The sum of all histogram counters (R47). -/
def histTotal (h : Vector (BitVec 32) 52) : Nat := (h.toList.map BitVec.toNat).sum

/-- What holds in every state a run reaches. -/
structure State.Inv (s : State) : Prop where
  /-- ERR ranges over 0 to 6 (R200, U8). -/
  err : s.err.toNat ≤ 6
  /-- `NBLK <= NB_MAX` (R33). -/
  nblk : s.nblk.toNat ≤ Config.nbMax
  /-- NRPT was an NBLK (R37). -/
  nrpt : s.nrpt.toNat ≤ Config.nbMax
  /-- The SSE registers are in range (R35). -/
  sse : s.sseR.toNat ≤ sseMax ∧ s.sseG.toNat ≤ sseMax ∧ s.sseB.toNat ≤ sseMax
  /-- PSNRV holds its reset value or a PSNR (R36, R158). -/
  psnrv : s.psnrv = 0 ∨ IsPsnrValue s.psnrv
  /-- PM is canonical and within its size (R40, R61). -/
  pm : s.pm.wf ∧ s.pm.below Config.nbMax
  /-- BS is canonical and within its size (R41, R61). -/
  bs : s.bs.wf ∧ s.bs.below (16 * Config.nbMax)
  /-- RPT is canonical and within its size (R44, R61). -/
  rpt : s.rpt.wf ∧ s.rpt.below (8 * Config.nbMax)
  /-- Every word of the report has its form (R95, R158). Rows at and above NRPT are unspecified (R44). -/
  rptWords : ∀ k v, k < 8 * s.nrpt.toNat → s.rpt.read? k = some v → reportWordForm (k % 8) v
  /-- Every row below NRPT was written (R37). -/
  rptRows : ∀ k, k < 8 * s.nrpt.toNat → (s.rpt.read? k).isSome
  /-- The counters cannot overflow: their sum is at most NB_MAX (R47). -/
  hist : histTotal s.hist ≤ Config.nbMax

end Sys2Proof.Machine
end

