-- ==== Sys2Proof/WellFormed.lean ====
section
/-! DEFINITION. Which instruction terms stand for a host access of their own. -/

namespace Sys2Proof

/-- Every field of a host access may hold every value (R110), so one check remains: a write of a command
word to CMD is that command (R24, R112), and is written with the command's own constructor, not with
`hwr`. So every record has exactly one well-formed instruction. -/
def Instr.wellFormed : Instr → Bool
  | .unpack565 _ => true
  | .decblk => true
  | .decmip => true
  | .psnr _ _ => true
  | .analyze => true
  | .srst => true
  | .hwr space off data => !(isCmdAddress space off && isCommandWord data)
  | .hrd _ _ => true

end Sys2Proof
end

