-- ==== Sys2Proof/Certificates/Slice0/Obligations.lean ====
section
/-! DEFINITION. The statements for the provers. Each formalises the rules its docstring names, or says of which
choice of the model it speaks. -/

open Sys2Proof Sys2Proof.Machine

/-! ## Vocabulary of the statements -/

/-- What R55 and R230 say of a machine just after a reset: every register 0 but CAP, the histogram 0, and every
word of the three memories whatever that reset left there. That what a reset left is a function of the number of
resets is the model's choice (notes/assumptions/3 and 4). -/
def Sys2Proof.Machine.JustReset (t : State) : Prop :=
  (∀ r : Reg, r ≠ .cap → t.readReg r = 0) ∧ t.readReg .cap = BitVec.ofNat 64 Config.nbMax ∧
  (∀ k : Fin 52, t.hist[k] = 0) ∧
  (∀ i, t.pmWord i = Config.unwrittenPm t.epoch i ∧ t.bsWord i = Config.unwrittenBs t.epoch i ∧
    t.rptWord i = Config.unwrittenRpt t.epoch i)

/-- The unmapped addresses of R67. -/
def Sys2Proof.Machine.Unmapped (space : BitVec 4) (off : BitVec 32) : Prop :=
  5 ≤ space.toNat ∨ (space = 0 ∧ (off = 15 ∨ 31 < off.toNat)) ∨ (space = 1 ∧ Config.nbMax ≤ off.toNat) ∨
  (space = 2 ∧ 16 * Config.nbMax ≤ off.toNat) ∨ (space = 3 ∧ 8 * Config.nbMax ≤ off.toNat) ∨
  (space = 4 ∧ 52 ≤ off.toNat)

/-- The places of R68 the host may not write: ERR, CAP, COLOR, the results of PSNR, NRPT, TEX0 to TEX15, and
all of RPT and HIST. -/
def Sys2Proof.Machine.ReadOnly (space : BitVec 4) (off : BitVec 32) : Prop :=
  (space = 0 ∧ (off = 1 ∨ off = 2 ∨ off = 4 ∨ (10 ≤ off.toNat ∧ off.toNat ≤ 14) ∨
    (16 ≤ off.toNat ∧ off.toNat ≤ 31))) ∨
  (space = 3 ∧ off.toNat < 8 * Config.nbMax) ∨ (space = 4 ∧ off.toNat < 52)

/-- Two blocks that agree but for one channel of one texel, where they differ by `d` (R160). -/
def Sys2Proof.Machine.DifferBy (a b : DecodedBlock) (t : Fin 16) (ch : ColorChannel) (d : Nat) : Prop :=
  (∀ i : Fin 16, ∀ c : ColorChannel, (i ≠ t ∨ c ≠ ch) → Color.channel c a[i] = Color.channel c b[i]) ∧
  ((((Color.channel ch a[t]).toNat : Int) - (Color.channel ch b[t]).toNat).natAbs = d)

/-- The u32 field in the high half of a report word (R95). -/
def Sys2Proof.Machine.highField (w : Word) : Nat := (w.extractLsb' 32 32).toNat

/-- The u32 field in the low half of a report word (R95). -/
def Sys2Proof.Machine.lowField (w : Word) : Nat := (w.extractLsb' 0 32).toNat

/-! ## Reset -/

/-- R55: what the reset state holds, every register, counter and memory word. -/
def Obligations.ResetStateHoldsResetValues : Prop := JustReset State.reset

/-- R190: SRST resets everything, halted or not. The last four clauses speak of the model's own fields and are its
choice (notes/assumptions/4, 24, 6 and 7). -/
def Obligations.SrstResetsEverything : Prop :=
  ∀ s : State, ∃ t, exec .srst s = .next t ∧ JustReset t ∧ t.epoch = s.epoch + 1 ∧
    t.reports = s.reports ∧ t.pending = s.pending ∧ t.response = s.response

/-- R230: the external reset event, taken between two accesses, resets the machine and does what SRST does. That
the event comes from the script is the model's choice (notes/assumptions/6 and 16). -/
def Obligations.ExternalResetDoesWhatSrstDoes : Prop :=
  ∀ (s : State) (rest : List HostEvent), s.pending = .reset :: rest →
    ∃ t, step s = .next t ∧ JustReset t ∧ exec .srst (s.takeEvent rest) = .next t

/-! ## The decoder unit -/

/-- R120, R121: UNPACK565 writes COLOR and nothing else; each channel is its field shifted left. -/
def Obligations.Unpack565WritesShiftedFields : Prop :=
  ∀ (v : BitVec 16) (s : State), s.err = 0 →
    ∃ c : BitVec 24, exec (.unpack565 v) s = .next { s with color := c } ∧
      (c.extractLsb' 0 8).toNat = min 255 ((v.extractLsb' 11 5).toNat <<< 3) ∧
      (c.extractLsb' 8 8).toNat = min 255 ((v.extractLsb' 5 6).toNat <<< 2) ∧
      (c.extractLsb' 16 8).toNat = min 255 ((v.extractLsb' 0 5).toNat <<< 3)

/-- R123: the three fields can be read back, so different values unpack to different Colors. -/
def Obligations.Unpack565IsInjective : Prop :=
  (∀ v : BitVec 16, (unpack565 v).r.toNat >>> 3 = (v.extractLsb' 11 5).toNat ∧
    (unpack565 v).g.toNat >>> 2 = (v.extractLsb' 5 6).toNat ∧
    (unpack565 v).b.toNat >>> 3 = (v.extractLsb' 0 5).toNat) ∧
  ∀ v w : BitVec 16, unpack565 v = unpack565 w → v = w

/-- R138 with R131 to R135: DECBLK writes the sixteen TEX registers and nothing else; texel `t` is the palette
entry its two bits of BLK select, the two mixed entries truncated thirds, with no comparison of the endpoints. -/
def Obligations.DecblkWritesSixteenTexels : Prop :=
  ∀ s : State, s.err = 0 →
    ∃ tex : Vector (BitVec 24) 16, exec .decblk s = .next { s with tex := tex } ∧
      ∀ (t : Fin 16) (ch : ColorChannel),
        let a := (Color.channel ch (unpack565 (s.blk.extractLsb' 0 16))).toNat
        let b := (Color.channel ch (unpack565 (s.blk.extractLsb' 16 16))).toNat
        (Color.channel ch (colorOfWord tex[t])).toNat =
          match (s.blk.extractLsb' (32 + 2 * t) 2).toNat with
          | 0 => a
          | 1 => b
          | 2 => (2 * a + b) / 3
          | _ => (a + 2 * b) / 3

/-- R136: no overshoot, equal endpoints give equal entries, swapping the endpoints swaps the entries in pairs,
and every texel is a palette entry. -/
def Obligations.PaletteStaysBetweenEndpoints : Prop :=
  ∀ blk : PackedBlock,
    (∀ ch : ColorChannel, ∀ k : Fin 4,
      min (Color.channel ch (palette blk)[0]).toNat (Color.channel ch (palette blk)[1]).toNat ≤
          (Color.channel ch (palette blk)[k]).toNat ∧
        (Color.channel ch (palette blk)[k]).toNat ≤
          max (Color.channel ch (palette blk)[0]).toNat (Color.channel ch (palette blk)[1]).toNat) ∧
    (blk.endpointA = blk.endpointB → ∀ k : Fin 4, (palette blk)[k] = (palette blk)[0]) ∧
    palette { blk with endpointA := blk.endpointB, endpointB := blk.endpointA } =
      #v[(palette blk)[1], (palette blk)[0], (palette blk)[3], (palette blk)[2]] ∧
    ∀ i : Fin 16, (decodeBlock blk)[i] ∈ palette blk

/-- R139: the grid of a mip level, its bounds, and that `8 * n` fits below 2^63. -/
def Obligations.MipGridCountsWholeBlocks : Prop :=
  ∀ w h : BitVec 32,
    gridCount w = max 4 w.toNat / 4 ∧ gridCount w = max 1 (w.toNat / 4) ∧
    1 ≤ gridCount w ∧ gridCount w ≤ 2 ^ 30 - 1 ∧ gridBlocks w h = gridCount w * gridCount h ∧
    1 ≤ gridBlocks w h ∧ gridBlocks w h ≤ (2 ^ 30 - 1) ^ 2 ∧ 8 * gridBlocks w h < 2 ^ 63

/-- R140, the good path: with the declared length and the capacity right, DECMIP decodes every block of the grid
into BS, sets NBLK and BPR, and changes nothing else. -/
def Obligations.DecmipDecodesWholeMipLevel : Prop :=
  ∀ s : State, s.err = 0 →
    s.buflen.toNat = 8 * (max 4 s.width.toNat / 4 * (max 4 s.height.toNat / 4)) →
    max 4 s.width.toNat / 4 * (max 4 s.height.toNat / 4) ≤ Config.nbMax →
    ∃ t, exec .decmip s = .next t ∧
      t = { s with bs := t.bs, nblk := t.nblk, bpr := t.bpr } ∧
      t.nblk.toNat = max 4 s.width.toNat / 4 * (max 4 s.height.toNat / 4) ∧
      t.bpr.toNat = max 4 s.width.toNat / 4 ∧
      (∀ i (j : Fin 16), i < t.nblk.toNat →
        t.bsWord (16 * i + j) = packColor (decodeBlock (blockOfWord (s.pmWord i)))[j]) ∧
      ∀ k, 16 * t.nblk.toNat ≤ k → t.bsWord k = s.bsWord k

/-- R140, the errors in their order: InvalidBlockData, then CapacityExceeded; nothing but ERR changes. -/
def Obligations.DecmipChecksLengthThenCapacity : Prop :=
  ∀ s : State, s.err = 0 →
    (s.buflen.toNat ≠ 8 * gridBlocks s.width s.height → exec .decmip s = .next { s with err := 2 }) ∧
    (s.buflen.toNat = 8 * gridBlocks s.width s.height → Config.nbMax < gridBlocks s.width s.height →
      exec .decmip s = .next { s with err := 5 })

/-! ## The similarity unit: PSNR -/

/-- R150 with R151 and R155: PSNR writes the three channel sums of squared differences and the binary64 minimum of
the three channel PSNRs, and nothing else. -/
def Obligations.PsnrWritesChannelSumsAndWorstPsnr : Prop :=
  ∀ (a b : BitVec 24) (s : State), s.err = 0 → a.toNat < s.nblk.toNat → b.toNat < s.nblk.toNat →
    ∃ t, exec (.psnr a b) s = .next t ∧
      t = { s with sseR := t.sseR, sseG := t.sseG, sseB := t.sseB, psnrv := t.psnrv } ∧
      (∀ ch : ColorChannel,
        (((match ch with | .r => t.sseR | .g => t.sseG | .b => t.sseB).toNat : Nat) : Int) =
          ∑ i : Fin 16, (((Color.channel ch (colorOfWord (s.bsWord (16 * a.toNat + i)))).toNat : Int) -
            (Color.channel ch (colorOfWord (s.bsWord (16 * b.toNat + i)))).toNat) ^ 2) ∧
      t.psnrv = binary64Min (binary64Min (psnrch t.sseR.toNat) (psnrch t.sseG.toNat)) (psnrch t.sseB.toNat)

/-- R150, the error: a block number not below NBLK. -/
def Obligations.PsnrRefusesBlockNumbersPastNblk : Prop :=
  ∀ (a b : BitVec 24) (s : State), s.err = 0 → (s.nblk.toNat ≤ a.toNat ∨ s.nblk.toNat ≤ b.toNat) →
    exec (.psnr a b) s = .next { s with err := 4 }

/-- Swapping the operands of PSNR changes nothing, errors included (R150's corner case, R160's symmetry). -/
def Obligations.PsnrCommandIsSymmetric : Prop :=
  ∀ (a b : BitVec 24) (s : State), exec (.psnr a b) s = exec (.psnr b a) s

/-- R152: a channel SSE is an mse with four fraction bits, at most `16 * 255^2`, and 0 exactly when the channel
agrees at all sixteen texels. -/
def Obligations.ChannelSseIsZeroExactlyOnAgreement : Prop :=
  ∀ (ch : ColorChannel) (a b : DecodedBlock),
    channelSse ch a b ≤ 16 * 255 ^ 2 ∧
    (channelSse ch a b = 0 ↔ ∀ i : Fin 16, Color.channel ch a[i] = Color.channel ch b[i])

/-- R159: the order of block PSNRs is the reverse order of the largest channel SSEs, for the PSNRCH of the
configuration, whichever admissible one it is. -/
def Obligations.PsnrOrderIsReverseSseOrder : Prop :=
  ∀ a b c d : DecodedBlock,
    psnr a b = psnrch (msse a b) ∧
    (psnr a b = psnrInf ↔ msse a b = 0) ∧ (msse a b = 0 ↔ a = b) ∧
    (binary64Lt (psnr a b) (psnr c d) = true ↔ msse c d < msse a b) ∧
    (psnr a b = psnr c d ↔ msse a b = msse c d)

/-- R160: symmetry, identity, and a larger single-channel difference gives a strictly smaller PSNR. -/
def Obligations.PsnrSymmetryIdentityMonotonicity : Prop :=
  (∀ a b : DecodedBlock, psnr a b = psnr b a) ∧ (∀ a : DecodedBlock, psnr a a = psnrInf) ∧
  ∀ (a b c e : DecodedBlock) (t u : Fin 16) (ch ch' : ColorChannel) (d d' : Nat),
    DifferBy a b t ch d → DifferBy c e u ch' d' → d < d' → binary64Lt (psnr c e) (psnr a b) = true

/-- R154: PSNR_INF is the largest finite binary64, `(2 - 2^-52) * 2^1023`, and above every finite PSNR. -/
def Obligations.PsnrInfIsLargestFinite : Prop :=
  binary64Val psnrInf = (2 - 2 ^ (-52 : ℤ)) * 2 ^ (1023 : ℤ) ∧ isFinite64 psnrInf = true ∧
  (∀ p : Word, isFinite64 p = true → binary64Val p ≤ binary64Val psnrInf) ∧
  ∀ s, 1 ≤ s → s ≤ sseMax → binary64Val (psnrch s) < 61 ∧ binary64Lt (psnrch s) psnrInf = true

/-- R158: every pattern the hardware can hold is +0.0 or normal, and only PSNR_NEG is negative. -/
def Obligations.HeldPatternsAreZeroOrNormal : Prop :=
  ∀ p : Word, (p = 0 ∨ IsPsnrValue p ∨ p = psnrNeg) →
    (p = 0 ∨ (binary64Exponent p ≠ 0 ∧ binary64Exponent p ≠ 2047)) ∧
    (binary64Sign p = true ↔ p = psnrNeg)

/-! ## The similarity unit: ANALYZE -/

/-- R172, with R175's rounding of the binary64 maximum: where its entry checks pass, ANALYZE leaves what R172's
pseudocode with binary64 comparisons leaves. Both sides leave free words in the rows that fall out of the report and
count the report, which is the model's choice (notes/assumptions/12 and 24). -/
def Obligations.AnalyzeBuildsReportOfR172 : Prop :=
  ∀ s : State, s.err = 0 → s.nblk ≠ 0 → s.bpr ≠ 0 → exec .analyze s = .next s.buildReportByPsnr

/-- R179: the whole report of two or more blocks in integers. -/
def Obligations.AnalyzeReportInIntegers : Prop :=
  ∀ s : State, s.err = 0 → s.bpr ≠ 0 → 2 ≤ s.nblk.toNat →
    ∃ (t : State) (best bestSse worstSse : Nat → Nat), exec .analyze s = .next t ∧
      (∀ i, i < s.nblk.toNat →
        (best i < s.nblk.toNat ∧ best i ≠ i ∧ s.pairSse i (best i) = bestSse i) ∧
        (∃ j, j < s.nblk.toNat ∧ j ≠ i ∧ s.pairSse i j = worstSse i) ∧
        (∀ j, j < s.nblk.toNat → j ≠ i →
          bestSse i ≤ s.pairSse i j ∧ s.pairSse i j ≤ worstSse i ∧
          (s.pairSse i j = bestSse i → j ≤ best i)) ∧
        t.rptWord (8 * i) = psnrch (worstSse i) ∧
        t.rptWord (8 * i + 1) = psnrch (bestSse i) ∧
        t.rptWord (8 * i + 2) = BitVec.ofNat 64 (i + best i * 2 ^ 32) ∧
        t.rptWord (8 * i + 5) = BitVec.ofNat 64 (bestSse i + worstSse i * 2 ^ 32 + 2 ^ 63)) ∧
      ∀ k : Fin 52, t.hist[k].toNat =
        ((List.range s.nblk.toNat).filter fun i => bucketS (bestSse i) = k).length

/-- R170's State written and R176: ANALYZE writes HIST, RPT rows below NBLK and NRPT, and of the hardware's state at
most the rows of a longer old report besides; that those rows are free, as R44 has them, and not as they were, as
R170 has them, is the model's choice (notes/assumptions/12), and so is the count of reports (24). The rows hold the
coordinates of the block and of its best match, and zero words 6 and 7. NBLK is at most NB_MAX in every state
of a run (`InvariantIsKeptByEveryStep`), which keeps the coordinates within their 32 bits. -/
def Obligations.AnalyzeWritesCoordinatesAndFrame : Prop :=
  ∀ s : State, s.err = 0 → s.nblk ≠ 0 → s.nblk.toNat ≤ Config.nbMax → s.bpr ≠ 0 →
    ∃ t, exec .analyze s = .next t ∧
      t = { s with hist := t.hist, rpt := t.rpt, nrpt := s.nblk, reports := s.reports + 1 } ∧
      (∀ k, 8 * s.nblk.toNat ≤ k → 8 * s.nrpt.toNat ≤ k → t.rptWord k = s.rptWord k) ∧
      ∀ i, i < s.nblk.toNat →
        let best := highField (t.rptWord (8 * i + 2))
        lowField (t.rptWord (8 * i + 2)) = i ∧ best < s.nblk.toNat ∧
        lowField (t.rptWord (8 * i + 3)) = i % s.bpr.toNat * 4 ∧
        highField (t.rptWord (8 * i + 3)) = i / s.bpr.toNat * 4 ∧
        lowField (t.rptWord (8 * i + 4)) = best % s.bpr.toNat * 4 ∧
        highField (t.rptWord (8 * i + 4)) = best / s.bpr.toNat * 4 ∧
        (∀ w, w = 3 ∨ w = 4 →
          lowField (t.rptWord (8 * i + w)) < 2 ^ 26 ∧ highField (t.rptWord (8 * i + w)) < 2 ^ 26) ∧
        t.rptWord (8 * i + 6) = 0 ∧ t.rptWord (8 * i + 7) = 0

/-- R173: the one-block report. -/
def Obligations.AnalyzeOfOneBlock : Prop :=
  ∀ s : State, s.err = 0 → s.nblk = 1 → s.bpr ≠ 0 →
    ∃ t, exec .analyze s = .next t ∧ t.rptWord 0 = 0x7FEFFFFFFFFFFFFF ∧ t.rptWord 1 = 0xFFEFFFFFFFFFFFFF ∧
      (∀ w, 2 ≤ w → w < 8 → t.rptWord w = 0) ∧ (∀ k : Fin 52, t.hist[k] = 0) ∧ t.nrpt = 1

/-- R171: the entry checks of ANALYZE, EmptyInput before BadOperand; nothing but ERR changes. -/
def Obligations.AnalyzeChecksEmptyThenBpr : Prop :=
  ∀ s : State, s.err = 0 →
    (s.nblk = 0 → exec .analyze s = .next { s with err := 3 }) ∧
    (s.nblk ≠ 0 → s.bpr = 0 → exec .analyze s = .next { s with err := 4 })

/-- R180: histogram conservation, self-exclusion, and the report of four identical blocks. -/
def Obligations.AnalyzeConservesCountsAndExcludesSelf : Prop :=
  ∀ s : State, s.err = 0 → s.nblk ≠ 0 → s.bpr ≠ 0 →
    ∃ t, exec .analyze s = .next t ∧
      (2 ≤ s.nblk.toNat → histTotal t.hist = s.nblk.toNat ∧
        ∀ i, i < s.nblk.toNat → highField (t.rptWord (8 * i + 2)) ≠ i) ∧
      (s.nblk = 1 → histTotal t.hist = 0) ∧
      (s.nblk = 4 → (∀ i, i < 4 → s.blockAt i = s.blockAt 0) →
        (∀ i, i < 4 → t.rptWord (8 * i + 1) = psnrInf) ∧ t.hist[51] = 4)

/-- R170's State read: what ANALYZE leaves depends on NBLK, BPR and the BS words below `16 * NBLK` alone. -/
def Obligations.AnalyzeDependsOnCollectionOnly : Prop :=
  ∀ s u : State, s.err = 0 → u.err = 0 → s.nblk = u.nblk → s.bpr = u.bpr → s.nblk ≠ 0 → s.bpr ≠ 0 →
    (∀ k, k < 16 * s.nblk.toNat → s.bsWord k = u.bsWord k) →
    ∃ t v, exec .analyze s = .next t ∧ exec .analyze u = .next v ∧ t.hist = v.hist ∧ t.nrpt = v.nrpt ∧
      ∀ k, k < 8 * s.nblk.toNat → t.rptWord k = v.rptWord k

/-- R177: the integer bucket is the bucket of the rounded binary64 PSNR, for the PSNRCH of the configuration,
whichever admissible one it is; and the table is the floor the rule gives. -/
def Obligations.IntegerBucketAgreesWithRounding : Prop :=
  (∀ m, m ≤ sseMax → bucket (psnrch m) = (bucketS m).val) ∧ bucketS 0 = 51 ∧
  (∀ m, 1 ≤ m → m ≤ sseMax →
    m ≤ bucketBounds[bucketS m] ∧ ∀ k : Fin 52, m ≤ bucketBounds[k] → k ≤ bucketS m) ∧
  bucketBounds[0] = 1040400 ∧
  ∀ k : Fin 52, 1 ≤ k.val →
    (bucketBounds[k] : ℤ) = ⌊(1040400 : ℝ) / (10 : ℝ) ^ (((k.val : ℝ) - 1 / 2) / 10)⌋

/-! ## The host port -/

/-- R65: what a host write that passes its checks changes: the addressed register or word, or, at CMD, what the
command changes. -/
def Obligations.HostWriteChangesOnlyItsPlace : Prop :=
  ∀ (s : State) (off : BitVec 32) (data : Word), s.err = 0 →
    (∀ c, decodeCommand data = .ok c → exec (.hwr 0 0 data) s = exec c.toInstr s) ∧
    exec (.hwr 0 3 data) s = .next { s with blk := data } ∧
    exec (.hwr 0 7 data) s = .next { s with buflen := data } ∧
    (data.toNat < 2 ^ 32 →
      exec (.hwr 0 5 data) s = .next { s with width := data.setWidth 32 } ∧
      exec (.hwr 0 6 data) s = .next { s with height := data.setWidth 32 } ∧
      exec (.hwr 0 9 data) s = .next { s with bpr := data.setWidth 32 }) ∧
    (data.toNat ≤ Config.nbMax → exec (.hwr 0 8 data) s = .next { s with nblk := data.setWidth 32 }) ∧
    (off.toNat < Config.nbMax → ∃ t, exec (.hwr 1 off data) s = .next t ∧ t = { s with pm := t.pm } ∧
      ∀ k, t.pmWord k = if k = off.toNat then data else s.pmWord k) ∧
    (off.toNat < 16 * Config.nbMax → data.toNat < 2 ^ 24 →
      ∃ t, exec (.hwr 2 off data) s = .next t ∧ t = { s with bs := t.bs } ∧
        ∀ k, t.bsWord k = if k = off.toNat then data.setWidth 24 else s.bsWord k)

/-- R66: write data that does not fit raises BadOperand, a too large NBLK raises CapacityExceeded; nothing is
written. A write to CMD is refused for its word alone. -/
def Obligations.HostWriteRefusesDataThatDoesNotFit : Prop :=
  ∀ (s : State) (off : BitVec 32) (data : Word), s.err = 0 →
    (2 ^ 32 ≤ data.toNat → (off = 5 ∨ off = 6 ∨ off = 8 ∨ off = 9) →
      exec (.hwr 0 off data) s = .next { s with err := 4 }) ∧
    (2 ^ 24 ≤ data.toNat → off.toNat < 16 * Config.nbMax →
      exec (.hwr 2 off data) s = .next { s with err := 4 }) ∧
    (data.toNat < 2 ^ 32 → Config.nbMax < data.toNat → exec (.hwr 0 8 data) s = .next { s with err := 5 }) ∧
    (isCommandWord data = false → exec (.hwr 0 0 data) s = .next { s with err := 1 })

/-- R67, R68: a write to an unmapped address or to a read-only place raises BusError and writes nothing. -/
def Obligations.HostWriteOutsideTheMapRaisesBusError : Prop :=
  ∀ (s : State) (space : BitVec 4) (off : BitVec 32) (data : Word), s.err = 0 →
    (Unmapped space off ∨ ReadOnly space off) → exec (.hwr space off data) s = .next { s with err := 6 }

/-- R64: what a host read of a mapped word returns, halted or not; it changes no state but the model's response
field (notes/assumptions/7). -/
def Obligations.HostReadServesEveryMappedWord : Prop :=
  ∀ (s : State) (off : BitVec 32),
    exec (.hrd 0 0) s = .next { s with response := some 0 } ∧
    exec (.hrd 0 1) s = .next { s with response := some (s.err.setWidth 64) } ∧
    exec (.hrd 0 2) s = .next { s with response := some (BitVec.ofNat 64 Config.nbMax) } ∧
    exec (.hrd 0 3) s = .next { s with response := some s.blk } ∧
    exec (.hrd 0 4) s = .next { s with response := some (s.color.setWidth 64) } ∧
    exec (.hrd 0 5) s = .next { s with response := some (s.width.setWidth 64) } ∧
    exec (.hrd 0 6) s = .next { s with response := some (s.height.setWidth 64) } ∧
    exec (.hrd 0 7) s = .next { s with response := some s.buflen } ∧
    exec (.hrd 0 8) s = .next { s with response := some (s.nblk.setWidth 64) } ∧
    exec (.hrd 0 9) s = .next { s with response := some (s.bpr.setWidth 64) } ∧
    exec (.hrd 0 10) s = .next { s with response := some (s.sseR.setWidth 64) } ∧
    exec (.hrd 0 11) s = .next { s with response := some (s.sseG.setWidth 64) } ∧
    exec (.hrd 0 12) s = .next { s with response := some (s.sseB.setWidth 64) } ∧
    exec (.hrd 0 13) s = .next { s with response := some s.psnrv } ∧
    exec (.hrd 0 14) s = .next { s with response := some (s.nrpt.setWidth 64) } ∧
    (∀ t : Fin 16, off.toNat = 16 + t →
      exec (.hrd 0 off) s = .next { s with response := some (s.tex[t].setWidth 64) }) ∧
    (off.toNat < Config.nbMax →
      exec (.hrd 1 off) s = .next { s with response := some (s.pmWord off.toNat) }) ∧
    (off.toNat < 16 * Config.nbMax →
      exec (.hrd 2 off) s = .next { s with response := some ((s.bsWord off.toNat).setWidth 64) }) ∧
    (off.toNat < 8 * Config.nbMax →
      exec (.hrd 3 off) s = .next { s with response := some (s.rptWord off.toNat) }) ∧
    (∀ k : Fin 52, off.toNat = k →
      exec (.hrd 4 off) s = .next { s with response := some (s.hist[k].setWidth 64) })

/-- R64, R205: a read of an unmapped address returns 0, and raises BusError unless halted. The response field is
the model's own (notes/assumptions/7). -/
def Obligations.HostReadOfUnmappedAddressReturnsZero : Prop :=
  ∀ (s : State) (space : BitVec 4) (off : BitVec 32), Unmapped space off →
    (s.err = 0 → exec (.hrd space off) s = .next { s with err := 6, response := some 0 }) ∧
    (s.err ≠ 0 → exec (.hrd space off) s = .next { s with response := some 0 })

/-- R80 on PM: a word read after a write is the word written, and every other word is what it was, through the
port and two steps. The script and the response field are the model's own (notes/assumptions/6 and 7). -/
def Obligations.WrittenPmWordIsReadBack : Prop :=
  ∀ (s : State) (rest : List HostEvent) (off off' : BitVec 32) (data : Word), s.err = 0 →
    off.toNat < Config.nbMax → off'.toNat < Config.nbMax →
    s.pending = .access (encode (.hwr 1 off data)) :: .access (encode (.hrd 1 off')) :: rest →
    ∃ t u, step s = .next t ∧ step t = .next u ∧ u.pending = rest ∧
      u.response = some (if off' = off then data else s.pmWord off'.toNat)

/-- R70: the eight bytes of a PackedBlock, written to PM as one little-endian word, are the bytes of the raw
buffer at `8i .. 8i+7`. -/
def Obligations.RawBytesLandInPmWord : Prop :=
  ∀ (s : State) (i : BitVec 32) (bytes : Vector (BitVec 8) 8), s.err = 0 → i.toNat < Config.nbMax →
    ∃ t, exec (.hwr 1 i (wordOfBytes bytes)) s = .next t ∧
      (∀ k : Fin 8, t.rawByte (8 * i.toNat + k) = bytes[k]) ∧
      ∀ a, a / 8 ≠ i.toNat → t.rawByte a = s.rawByte a

/-- R71: the fields of PackedBlock `i` from the bytes of the raw buffer, least significant byte first. -/
def Obligations.PackedBlockFieldsAreLittleEndian : Prop :=
  ∀ (s : State) (i : Nat),
    (blockOfWord (s.pmWord i)).endpointA.toNat =
      (s.rawByte (8 * i)).toNat + 256 * (s.rawByte (8 * i + 1)).toNat ∧
    (blockOfWord (s.pmWord i)).endpointB.toNat =
      (s.rawByte (8 * i + 2)).toNat + 256 * (s.rawByte (8 * i + 3)).toNat ∧
    (blockOfWord (s.pmWord i)).indices.toNat =
      (s.rawByte (8 * i + 4)).toNat + 2 ^ 8 * (s.rawByte (8 * i + 5)).toNat +
        2 ^ 16 * (s.rawByte (8 * i + 6)).toNat + 2 ^ 24 * (s.rawByte (8 * i + 7)).toNat

/-- R91: the PackedBlock word and its fields determine each other. -/
def Obligations.PackedBlockWordLayout : Prop :=
  (∀ blk : PackedBlock, (packedWord blk).toNat =
      blk.endpointA.toNat + 2 ^ 16 * blk.endpointB.toNat + 2 ^ 32 * blk.indices.toNat ∧
    blockOfWord (packedWord blk) = blk) ∧
  ∀ w : Word, packedWord (blockOfWord w) = w

/-- R94: the Color word and its channels determine each other. -/
def Obligations.ColorWordLayout : Prop :=
  (∀ c : Color, (packColor c).toNat = c.r.toNat + 2 ^ 8 * c.g.toNat + 2 ^ 16 * c.b.toNat ∧
    colorOfWord (packColor c) = c) ∧
  ∀ w : BitVec 24, packColor (colorOfWord w) = w

/-! ## Errors and the halted condition -/

/-- R97: each kind of illegal word written to CMD raises IllegalCommand and does nothing else. -/
def Obligations.IllegalWordsRaiseIllegalCommand : Prop :=
  ∀ (w : Word) (s : State), s.err = 0 →
    let op := w.extractLsb' 0 8
    let a := w.extractLsb' 8 24
    let b := w.extractLsb' 32 24
    let z := w.extractLsb' 56 8
    ((op ≠ 1 ∧ op ≠ 2 ∧ op ≠ 3 ∧ op ≠ 4 ∧ op ≠ 5 ∧ op ≠ 0x0F) ∨ z ≠ 0 ∨
      (op = 1 ∧ (a.extractLsb' 16 8 ≠ 0 ∨ b ≠ 0)) ∨
      ((op = 2 ∨ op = 3 ∨ op = 5 ∨ op = 0x0F) ∧ (a ≠ 0 ∨ b ≠ 0))) →
    exec (.hwr 0 0 w) s = .next { s with err := 1 }

/-- R204: an access that raises leaves the state before it with ERR set, a code from 1 to 6, and a read's response
0; nothing else. The response field is the model's own (notes/assumptions/7). -/
def Obligations.ErrorsArePrecise : Prop :=
  ∀ (i : Instr) (s t : State), s.err = 0 → exec i s = .next t → t.err ≠ 0 →
    t = { s with err := t.err, response := t.response } ∧ t.err.toNat ≤ 6 ∧
    (match i with
      | .hrd _ _ => t.response = some 0
      | _ => t.response = s.response)

/-- R205: while halted every write but the SRST word is ignored and every read is served without raising. The
response field is the model's own (notes/assumptions/7). -/
def Obligations.HaltedMachineIgnoresWrites : Prop :=
  ∀ s : State, s.err ≠ 0 →
    (∀ imm16, exec (.unpack565 imm16) s = .next s) ∧ exec .decblk s = .next s ∧ exec .decmip s = .next s ∧
    (∀ a b, exec (.psnr a b) s = .next s) ∧ exec .analyze s = .next s ∧
    (∀ space off data, ¬(space = 0 ∧ off = 0 ∧ data = 0x000000000000000F) →
      exec (.hwr space off data) s = .next s) ∧
    exec (.hwr 0 0 0x000000000000000F) s = exec .srst s ∧
    ∀ space off, exec (.hrd space off) s =
      .next { s with response := some (((Place.locate space off).map s.load).getD 0) }

/-- R206: only a reset clears ERR. While halted, every step but the reset event and SRST leaves everything but the
host's script and the response, which are the model's own (notes/assumptions/6 and 7). -/
def Obligations.OnlyResetLeavesHaltedCondition : Prop :=
  ∀ s t : State, s.err ≠ 0 → step s = .next t →
    (∀ rest, s.pending ≠ .reset :: rest) →
    (∀ r rest, s.pending = .access r :: rest → decode r ≠ .srst) →
    t = { s with pending := t.pending, response := t.response }

/-- Who writes what: the sentences "written only by" of R28, R29, R35 to R37, R40 and R47, and the state-written
lines of the command rules, over all instructions at once. The clauses on response, pending, epoch and reports are
about the model's own fields, and no rule's (notes/assumptions/7, 6, 4 and 24). -/
def Obligations.EachPlaceHasItsWriters : Prop :=
  ∀ (i : Instr) (s t : State), i.wellFormed = true → i ≠ .srst → exec i s = .next t →
    ((∀ v, i ≠ .unpack565 v) → t.color = s.color) ∧
    (i ≠ .decblk → t.tex = s.tex) ∧
    ((∀ a b, i ≠ .psnr a b) →
      t.sseR = s.sseR ∧ t.sseG = s.sseG ∧ t.sseB = s.sseB ∧ t.psnrv = s.psnrv) ∧
    (i ≠ .analyze → t.rpt = s.rpt ∧ t.hist = s.hist ∧ t.nrpt = s.nrpt ∧ t.reports = s.reports) ∧
    ((∀ sp off d, i ≠ .hwr sp off d) →
      t.pm = s.pm ∧ t.blk = s.blk ∧ t.width = s.width ∧ t.height = s.height ∧ t.buflen = s.buflen ∧
      (i ≠ .decmip → t.bs = s.bs ∧ t.nblk = s.nblk ∧ t.bpr = s.bpr)) ∧
    ((∀ sp off, i ≠ .hrd sp off) → t.response = s.response) ∧
    t.pending = s.pending ∧ t.epoch = s.epoch

/-! ## The step -/

/-- R13, R14, R24: a step serves the next host access by the meaning of the instruction its record decodes to, taking
it off the script and clearing the model's response; with no event the hardware waits. Script, response and wait are
the model's choices (notes/assumptions/6, 7 and 8). -/
def Obligations.StepRunsDecodedAccess : Prop :=
  (∀ (s : State) (r : Record) (rest : List HostEvent) (i : Instr), s.pending = .access r :: rest →
    decode r = i → step s = exec i { s with pending := rest, response := none }) ∧
  ∀ s : State, s.pending = [] → step s = .next s

/-- R212: every possible access has a defined outcome, so every step completes. -/
def Obligations.EveryStepCompletes : Prop := ∀ s : State, ∃ t, step s = .next t

/-- The invariant holds at reset. -/
def Obligations.InvariantHoldsAtReset : Prop := State.reset.Inv

/-- Every step keeps the invariant: ERR within 0 to 6, NBLK and NRPT within NB_MAX, the SSE registers in range, PSNRV
a PSNR, the memories canonical and within their sizes, every row below NRPT written and every word of it in its
form, the histogram's sum within NB_MAX. The canonical form of a memory is the model's own
(notes/assumptions/5). -/
def Obligations.InvariantIsKeptByEveryStep : Prop :=
  ∀ s t : State, s.Inv → step s = .next t → t.Inv

/-! ## Encodings -/

/-- Decode and encode agree on every well-formed instruction, every operand at every value. Which terms are
well-formed is the model's choice (notes/assumptions/9). -/
def Obligations.DecodeOfEncodeIsIdentity : Prop :=
  ∀ i : Instr, i.wellFormed = true → decode (encode i) = i

/-- R110: every record decodes to a well-formed instruction, and encoding it gives the record back, but for the data
bits a read ignores. Which terms are well-formed is the model's choice (notes/assumptions/9). -/
def Obligations.EncodeOfDecodeIsIdentity : Prop :=
  ∀ r : Record, (decode r).wellFormed = true ∧
    (r.getLsbD 100 = true → encode (decode r) = r) ∧
    (r.getLsbD 100 = false → encode (decode r) = (r >>> 64) <<< 64)

/-- R100: the mask and match words of the table, and that no word matches two rows. -/
def Obligations.OpcodeRowsAreDisjoint : Prop :=
  opcodeMap = [⟨"UNPACK565", 0xFFFFFFFFFF0000FF, 1⟩, ⟨"DECBLK", 0xFFFFFFFFFFFFFFFF, 2⟩,
    ⟨"DECMIP", 0xFFFFFFFFFFFFFFFF, 3⟩, ⟨"PSNR", 0xFF000000000000FF, 4⟩,
    ⟨"ANALYZE", 0xFFFFFFFFFFFFFFFF, 5⟩, ⟨"SRST", 0xFFFFFFFFFFFFFFFF, 15⟩] ∧
  opcodeMap.Pairwise fun x y => ∀ w : Word, ¬(w &&& x.mask = x.pattern ∧ w &&& y.mask = y.pattern)

/-- R96, R98: a word whose fields fit a format is that command, with its operands read as they stand. -/
def Obligations.CommandWordFieldsAreReadAsTheyStand : Prop :=
  ∀ w : Word,
    let op := w.extractLsb' 0 8
    let a := w.extractLsb' 8 24
    let b := w.extractLsb' 32 24
    w.extractLsb' 56 8 = 0 →
    (op = 1 → a.extractLsb' 16 8 = 0 → b = 0 → decodeCommand w = .ok (.unpack565 (w.extractLsb' 8 16))) ∧
    (op = 4 → decodeCommand w = .ok (.psnr a b)) ∧
    (a = 0 → b = 0 →
      (op = 2 → decodeCommand w = .ok .decblk) ∧ (op = 3 → decodeCommand w = .ok .decmip) ∧
      (op = 5 → decodeCommand w = .ok .analyze) ∧ (op = 0x0F → decodeCommand w = .ok .srst))

/-- The model's loading point (notes/assumptions/6 and 10): a command word of the opcode table, placed for the next
step, is the instruction the next step runs. -/
def Obligations.PlacedCommandWordRunsNext : Prop :=
  ∀ (s : State) (w : Word) (c : Command), decodeCommand w = .ok c →
    decodeTableWord 64 w.toNat = some c.toInstr ∧
    step (s.withFetchWord 64 w.toNat) = exec c.toInstr { s with response := none }

/-- Words written out from R96, R100 and R110 decode to the instructions they stand for. -/
def Obligations.WrittenOutWordsDecode : Prop :=
  decode 0x10000000000000000000123401 = .unpack565 0x1234 ∧
  decode 0x10000000000000000000000002 = .decblk ∧
  decode 0x10000000000000000000000003 = .decmip ∧
  decode 0x10000000000000000200000104 = .psnr 1 2 ∧
  decode 0x10000000000000000000000005 = .analyze ∧
  decode 0x1000000000000000000000000F = .srst ∧
  decode 0x10000000050000000000000008 = .hwr 0 5 8 ∧
  decode 0x020000003F0000000000000000 = .hrd 2 63
end

