-- ==== Sys2Proof/Laws/Memory.lean ====
section
/-! SUPPORT. What reading and writing a memory do, once for all later proofs. -/

namespace Sys2Proof.Machine

variable {w : Nat}

@[simp] theorem Memory.read?_nil (off : Nat) : Memory.read? ([] : Memory w) off = none := rfl

theorem Memory.read?_cons (a : Nat) (v : BitVec w) (m : Memory w) (off : Nat) :
    Memory.read? ((a, v) :: m) off = if a = off then some v else Memory.read? m off := rfl

/-- A read of any offset after a write: the written word there, what was there before elsewhere. -/
theorem Memory.read?_write (m : Memory w) (off : Nat) (v : BitVec w) (k : Nat) :
    (m.write off v).read? k = if k = off then some v else m.read? k := by
  induction m with
  | nil => simp [Memory.write, Memory.read?, eq_comm]
  | cons c m ih =>
    obtain ⟨a, u⟩ := c
    simp only [Memory.write]
    split_ifs with h1 h2 h3 h3 <;> simp only [Memory.read?_cons, ih] <;> split_ifs <;>
      first | rfl | omega

@[simp] theorem Memory.read?_write_self (m : Memory w) (off : Nat) (v : BitVec w) :
    (m.write off v).read? off = some v := by simp [Memory.read?_write]

/-- The same for a range: the offsets from `base` to `base + len - 1` hold the words of `f`. -/
theorem Memory.read?_writeRange (m : Memory w) (base len : Nat) (f : Nat → BitVec w) (k : Nat) :
    (m.writeRange base len f).read? k =
      if base ≤ k ∧ k < base + len then some (f (k - base)) else m.read? k := by
  induction len with
  | zero => simp [Memory.writeRange]
  | succ n ih =>
    simp only [Memory.writeRange, Memory.read?_write, ih]
    split_ifs with h1 <;> first | rfl | omega | skip
    subst h1; simp

/-- What a write lists: the new word, or words listed before. -/
theorem Memory.mem_write {m : Memory w} {off : Nat} {v : BitVec w} {c : Nat × BitVec w}
    (h : c ∈ m.write off v) : c = (off, v) ∨ c ∈ m := by
  induction m with
  | nil => simpa [Memory.write] using h
  | cons d m ih =>
    obtain ⟨a, u⟩ := d
    simp only [Memory.write] at h
    split_ifs at h <;> simp only [List.mem_cons] at h ⊢ <;> tauto

/-- What a range write lists: words of the range, or words listed before. -/
theorem Memory.mem_writeRange {m : Memory w} {base len : Nat} {f : Nat → BitVec w} {c : Nat × BitVec w}
    (h : c ∈ m.writeRange base len f) : (∃ k, k < len ∧ c = (base + k, f k)) ∨ c ∈ m := by
  induction len with
  | zero => exact .inr h
  | succ n ih =>
    rcases Memory.mem_write h with rfl | h
    · exact .inl ⟨n, Nat.lt_succ_self n, rfl⟩
    · rcases ih h with ⟨k, hk, rfl⟩ | h
      · exact .inl ⟨k, by omega, rfl⟩
      · exact .inr h

/-- A write keeps the canonical form. -/
theorem Memory.wf_write {m : Memory w} (h : m.wf) (off : Nat) (v : BitVec w) : (m.write off v).wf := by
  induction m with
  | nil => simp [Memory.write, Memory.wf]
  | cons d m ih =>
    obtain ⟨a, u⟩ := d
    obtain ⟨hd, ht⟩ := List.pairwise_cons.1 h
    simp only [Memory.write]
    split_ifs with h1 h2
    · refine List.pairwise_cons.2 ⟨fun c hc => ?_, h⟩
      rcases List.mem_cons.1 hc with rfl | hc
      · exact h1
      · exact lt_trans h1 (hd c hc)
    · subst h2
      exact List.pairwise_cons.2 ⟨hd, ht⟩
    · refine List.pairwise_cons.2 ⟨fun c hc => ?_, ih ht⟩
      rcases Memory.mem_write hc with rfl | hc
      · exact show a < off by omega
      · exact hd c hc

/-- A range write keeps the canonical form. -/
theorem Memory.wf_writeRange {m : Memory w} (h : m.wf) (base len : Nat) (f : Nat → BitVec w) :
    (m.writeRange base len f).wf := by
  induction len with
  | zero => exact h
  | succ n ih => exact Memory.wf_write ih _ _

/-- A write below the bound stays below it. -/
theorem Memory.below_write {m : Memory w} {bound : Nat} (h : m.below bound) {off : Nat} (ho : off < bound)
    (v : BitVec w) : (m.write off v).below bound := fun _ hc => by
  rcases Memory.mem_write hc with rfl | hc
  · exact ho
  · exact h _ hc

/-- A range write below the bound stays below it. -/
theorem Memory.below_writeRange {m : Memory w} {bound : Nat} (h : m.below bound) {base len : Nat}
    (ho : base + len ≤ bound) (f : Nat → BitVec w) : (m.writeRange base len f).below bound := fun _ hc => by
  rcases Memory.mem_writeRange hc with ⟨k, hk, rfl⟩ | hc
  · exact show base + k < bound by omega
  · exact h _ hc

/-- In a canonical memory every listed word is the word read at its offset. -/
theorem Memory.read?_of_mem {m : Memory w} (h : m.wf) {c : Nat × BitVec w} (hc : c ∈ m) :
    m.read? c.1 = some c.2 := by
  induction m with
  | nil => cases hc
  | cons d m ih =>
    obtain ⟨hd, ht⟩ := List.pairwise_cons.1 h
    rcases List.mem_cons.1 hc with rfl | hc
    · exact if_pos rfl
    · exact (if_neg (hd c hc).ne).trans (ih ht hc)

/-- A memory with nothing written is canonical. -/
theorem Memory.wf_nil : Memory.wf ([] : Memory w) := List.Pairwise.nil

end Sys2Proof.Machine
end

