-- ==== Sys2Proof/Laws/Ops.lean ====
section
/-! SUPPORT. What each shared operation does, once for all later proofs. -/

namespace Sys2Proof.Machine

/-! ## Errors and the halted condition -/

theorem State.halted_iff (s : State) : s.halted = true ↔ s.err ≠ 0 := by simp [State.halted]

theorem State.not_halted_iff (s : State) : s.halted = false ↔ s.err = 0 := by simp [State.halted]

theorem ErrorCode.code_ne_zero (e : ErrorCode) : e.code ≠ 0 := by cases e <;> decide

theorem ErrorCode.code_le (e : ErrorCode) : e.code.toNat ≤ 6 := by cases e <;> decide

/-- Raising an error while none is recorded sets ERR and nothing else (R204). -/
theorem State.raise_of_running {s : State} (h : s.err = 0) (e : ErrorCode) :
    s.raise e = { s with err := e.code } := by simp [State.raise, h]

/-- Raising an error while one is recorded changes nothing (R204). -/
theorem State.raise_of_halted {s : State} (h : s.err ≠ 0) (e : ErrorCode) : s.raise e = s := by
  rw [State.raise, if_neg h]

/-- The gate of the halted condition, open (R205). -/
theorem whenRunning_of_running {s : State} (h : s.err = 0) (body : State → State) :
    whenRunning s body = body s := by simp [whenRunning, State.halted, h]

/-- The gate of the halted condition, closed (R205). -/
theorem whenRunning_of_halted {s : State} (h : s.err ≠ 0) (body : State → State) :
    whenRunning s body = s := by rw [whenRunning, s.halted_iff.2 h, if_pos rfl]

/-! ## Reading a memory through its state -/

theorem State.pmWord_write (s : State) (i : Nat) (v : Word) (k : Nat) :
    State.pmWord { s with pm := s.pm.write i v } k = if k = i then v else s.pmWord k := by
  simp only [State.pmWord, Memory.read?_write]; split <;> rfl

theorem State.bsWord_write (s : State) (i : Nat) (v : BitVec 24) (k : Nat) :
    State.bsWord { s with bs := s.bs.write i v } k = if k = i then v else s.bsWord k := by
  simp only [State.bsWord, Memory.read?_write]; split <;> rfl

/-- What DECMIP leaves in BS (R140). -/
theorem State.bsWord_decodeMip (s : State) (k : Nat) :
    s.decodeMip.bsWord k = if k < 16 * gridBlocks s.width s.height then s.mipTexel k else s.bsWord k := by
  simp only [State.bsWord, State.decodeMip, Memory.read?_writeRange]
  split_ifs <;> simp_all

/-- What a new report leaves in RPT: its own rows, free words where the old report was longer, and every other word
as it was (R172, R44). -/
theorem State.rptWord_installReport (s : State) (hist : Vector (BitVec 32) 52) (row : Nat → ReportRow) (k : Nat) :
    (s.installReport hist row).rptWord k =
      if k < 8 * s.nblk.toNat then (row (k / 8)).word (k % 8)
      else if k < 8 * s.nrpt.toNat then s.retiredWord k else s.rptWord k := by
  unfold State.rptWord
  simp only [State.installReport, Memory.read?_writeRange, Nat.zero_le, true_and, Nat.zero_add, Nat.sub_zero]
  by_cases h1 : k < 8 * s.nblk.toNat
  · rw [if_neg (by omega), if_pos h1, if_pos h1]; rfl
  · by_cases h2 : k < 8 * s.nrpt.toNat
    · rw [if_pos (by omega), if_neg h1, if_pos h2, show 8 * s.nblk.toNat + (k - 8 * s.nblk.toNat) = k by omega]; rfl
    · rw [if_neg (by omega), if_neg h1, if_neg h1, if_neg h2]

/-- What ANALYZE leaves in RPT (R172). -/
theorem State.rptWord_buildReport (s : State) (k : Nat) :
    s.buildReport.rptWord k =
      if k < 8 * s.nblk.toNat then (s.row (k / 8)).word (k % 8)
      else if k < 8 * s.nrpt.toNat then s.retiredWord k else s.rptWord k :=
  s.rptWord_installReport _ _ k

/-! ## Places -/

/-- Where a mapped address lies (R61, R67). -/
theorem Place.locate_spec {space : BitVec 4} {off : BitVec 32} {p : Place}
    (h : Place.locate space off = some p) :
    match p with
    | .reg r => space = 0 ∧ Reg.ofOffset off.toNat = some r
    | .pm i => space = 1 ∧ i = off.toNat ∧ i < Config.nbMax
    | .bs k => space = 2 ∧ k = off.toNat ∧ k < 16 * Config.nbMax
    | .rpt k => space = 3 ∧ k = off.toNat ∧ k < 8 * Config.nbMax
    | .hist k => space = 4 ∧ k.val = off.toNat := by
  unfold Place.locate at h
  split at h
  · obtain ⟨r, hr, rfl⟩ := Option.map_eq_some_iff.1 h
    exact ⟨by bv_omega, hr⟩
  all_goals
    first
    | cases h
    | (split at h <;> cases h; refine ⟨by bv_omega, rfl, ?_⟩; assumption)
    | (split at h <;> cases h; exact ⟨by bv_omega, rfl⟩)

/-- Only register 0 is CMD (10_state.md section 2). -/
theorem Reg.ofOffset_eq_cmd {off : Nat} : Reg.ofOffset off = some .cmd ↔ off = 0 := by
  unfold Reg.ofOffset
  split <;> simp

/-- Only (0, 0) is CMD (R24, R61). -/
theorem Place.locate_eq_cmd {space : BitVec 4} {off : BitVec 32} :
    Place.locate space off = some (.reg .cmd) ↔ isCmdAddress space off = true := by
  simp only [isCmdAddress, Bool.and_eq_true, beq_iff_eq]
  constructor
  · intro h
    have := Place.locate_spec h
    exact ⟨this.1, by have := Reg.ofOffset_eq_cmd.1 this.2; bv_omega⟩
  · rintro ⟨rfl, rfl⟩; rfl

/-! ## Command words (R97, R100) -/

/-- A word is illegal exactly when it is no command word. -/
theorem decodeCommand_error_iff (w : Word) :
    decodeCommand w = .error .illegalCommand ↔ isCommandWord w = false := by
  simp only [decodeCommand, isCommandWord, opcodeMap, List.any_cons, List.any_nil, Bool.or_false]
  repeat' split
  all_goals simp_all

/-- A command word decodes to a command. -/
theorem decodeCommand_ok_of_isCommandWord {w : Word} (h : isCommandWord w = true) :
    ∃ c, decodeCommand w = .ok c := by
  cases hd : decodeCommand w with
  | ok c => exact ⟨c, rfl⟩
  | error e => cases e; rw [(decodeCommand_error_iff w).1 hd] at h; cases h

/-! ## The host port: what a write can do -/

/-- Everything a write that is no command can do: be ignored, raise one error, or store one word
(R63, R65, R205). -/
theorem execHwr_cases {space : BitVec 4} {off : BitVec 32} {data : Word} {s t : State}
    (hw : (isCmdAddress space off && isCommandWord data) = false) (h : execHwr space off data s = .next t) :
    (s.err ≠ 0 ∧ t = s) ∨ (s.err = 0 ∧ ∃ e, t = s.raise e) ∨
      (s.err = 0 ∧ ∃ p, Place.locate space off = some p ∧ p.writeError data = none ∧ t = s.store data p) := by
  unfold execHwr at h
  split at h
  · rename_i hh
    have hs : isSrstWrite space off data = false := by
      cases hc : isSrstWrite space off data with
      | false => rfl
      | true =>
        simp only [isSrstWrite, Bool.and_eq_true] at hc
        simp [hc.1, isCommandWord, opcodeMap, hc.2] at hw
    rw [hs] at h
    simp only [Bool.false_eq_true, if_false, Host.Outcome.next.injEq] at h
    exact .inl ⟨(State.halted_iff s).1 hh, h.symm⟩
  · rename_i hh
    have hr : s.err = 0 := by simpa [State.halted] using hh
    refine .inr ?_
    split at h
    · cases h; exact .inl ⟨hr, _, rfl⟩
    · rename_i p hp
      unfold writePlace at h
      split at h
      · cases h; exact .inl ⟨hr, _, rfl⟩
      · rename_i hno
        split at h
        · rename_i hcmd
          have hcmd' := Place.locate_eq_cmd.1 (hcmd ▸ hp)
          rw [hcmd', Bool.true_and] at hw
          unfold issueCommand at h
          rw [(decodeCommand_error_iff data).2 hw] at h
          cases h; exact .inl ⟨hr, _, rfl⟩
        · cases h; exact .inr ⟨hr, p, hp, hno, rfl⟩

/-! ## Storing one word: what it never changes (R65, R68) -/

@[simp] theorem State.store_err (s : State) (data : Word) (p : Place) : (s.store data p).err = s.err := by
  cases p with
  | reg r => cases r <;> rfl
  | _ => rfl

@[simp] theorem State.store_color (s : State) (data : Word) (p : Place) : (s.store data p).color = s.color := by
  cases p with
  | reg r => cases r <;> rfl
  | _ => rfl

@[simp] theorem State.store_sseR (s : State) (data : Word) (p : Place) : (s.store data p).sseR = s.sseR := by
  cases p with
  | reg r => cases r <;> rfl
  | _ => rfl

@[simp] theorem State.store_sseG (s : State) (data : Word) (p : Place) : (s.store data p).sseG = s.sseG := by
  cases p with
  | reg r => cases r <;> rfl
  | _ => rfl

@[simp] theorem State.store_sseB (s : State) (data : Word) (p : Place) : (s.store data p).sseB = s.sseB := by
  cases p with
  | reg r => cases r <;> rfl
  | _ => rfl

@[simp] theorem State.store_psnrv (s : State) (data : Word) (p : Place) : (s.store data p).psnrv = s.psnrv := by
  cases p with
  | reg r => cases r <;> rfl
  | _ => rfl

@[simp] theorem State.store_nrpt (s : State) (data : Word) (p : Place) : (s.store data p).nrpt = s.nrpt := by
  cases p with
  | reg r => cases r <;> rfl
  | _ => rfl

@[simp] theorem State.store_tex (s : State) (data : Word) (p : Place) : (s.store data p).tex = s.tex := by
  cases p with
  | reg r => cases r <;> rfl
  | _ => rfl

@[simp] theorem State.store_hist (s : State) (data : Word) (p : Place) : (s.store data p).hist = s.hist := by
  cases p with
  | reg r => cases r <;> rfl
  | _ => rfl

@[simp] theorem State.store_rpt (s : State) (data : Word) (p : Place) : (s.store data p).rpt = s.rpt := by
  cases p with
  | reg r => cases r <;> rfl
  | _ => rfl

@[simp] theorem State.store_epoch (s : State) (data : Word) (p : Place) : (s.store data p).epoch = s.epoch := by
  cases p with
  | reg r => cases r <;> rfl
  | _ => rfl

@[simp] theorem State.store_reports (s : State) (data : Word) (p : Place) : (s.store data p).reports = s.reports := by
  cases p with
  | reg r => cases r <;> rfl
  | _ => rfl

@[simp] theorem State.store_pending (s : State) (data : Word) (p : Place) : (s.store data p).pending = s.pending := by
  cases p with
  | reg r => cases r <;> rfl
  | _ => rfl

@[simp] theorem State.store_response (s : State) (data : Word) (p : Place) :
    (s.store data p).response = s.response := by
  cases p with
  | reg r => cases r <;> rfl
  | _ => rfl

/-- Everything a read can do: serve a mapped word, or answer 0 and, unless halted, raise BusError (R64, R205). -/
theorem execHrd_cases {space : BitVec 4} {off : BitVec 32} {s t : State} (h : execHrd space off s = .next t) :
    (∃ p, Place.locate space off = some p ∧ t = { s with response := some (s.load p) }) ∨
      (Place.locate space off = none ∧ s.err ≠ 0 ∧ t = { s with response := some 0 }) ∨
      (Place.locate space off = none ∧ s.err = 0 ∧ t = { s with err := 6, response := some 0 }) := by
  unfold execHrd at h
  split at h
  · rename_i p hp
    cases h
    exact .inl ⟨p, hp, rfl⟩
  · rename_i hp
    cases hh : s.halted with
    | true =>
      rw [hh, if_pos rfl] at h
      cases h
      exact .inr (.inl ⟨hp, s.halted_iff.1 hh, rfl⟩)
    | false =>
      have hr := s.not_halted_iff.1 hh
      rw [hh, if_neg (by decide), State.raise_of_running hr] at h
      cases h
      exact .inr (.inr ⟨hp, hr, rfl⟩)

/-! ## The grid of a mip level (R139) -/

theorem gridCount_pos (d : BitVec 32) : 1 ≤ gridCount d := by unfold gridCount; omega

theorem gridCount_lt (d : BitVec 32) : gridCount d < 2 ^ 30 := by unfold gridCount; omega

theorem gridCount_le_gridBlocks (w h : BitVec 32) : gridCount w ≤ gridBlocks w h :=
  Nat.le_mul_of_pos_right _ (gridCount_pos h)

end Sys2Proof.Machine
end

