-- ==== Sys2Proof/Laws/Similarity.lean ====
section
/-! SUPPORT. The small lemmas of the similarity unit's functions. -/

namespace Sys2Proof.Machine

/-! ## The difference accumulator (R151) -/

/-- The squared difference as an integer square. -/
theorem squaredDifference_cast (x y : Channel) :
    (squaredDifference x y : Int) = ((x.toNat : Int) - y.toNat) ^ 2 := by
  simp only [squaredDifference, ← sq]
  exact Int.toNat_of_nonneg (sq_nonneg _)

theorem squaredDifference_comm (x y : Channel) : squaredDifference x y = squaredDifference y x := by
  have : (squaredDifference x y : Int) = squaredDifference y x := by
    rw [squaredDifference_cast, squaredDifference_cast]; ring
  exact_mod_cast this

@[simp] theorem squaredDifference_self (x : Channel) : squaredDifference x x = 0 := by
  simp [squaredDifference]

theorem squaredDifference_le (x y : Channel) : squaredDifference x y ≤ 65025 := by
  have h : (squaredDifference x y : Int) ≤ 65025 := by
    rw [squaredDifference_cast]
    have := x.isLt; have := y.isLt
    nlinarith
  exact_mod_cast h

/-- The channel sum as a finite sum over the sixteen texels. -/
theorem channelSse_eq_sum (ch : ColorChannel) (a b : DecodedBlock) :
    channelSse ch a b = ∑ i : Fin 16, squaredDifference (Color.channel ch a[i]) (Color.channel ch b[i]) := by
  rw [channelSse, ← List.ofFn_eq_map, List.sum_ofFn]

theorem channelSse_comm (ch : ColorChannel) (a b : DecodedBlock) : channelSse ch a b = channelSse ch b a := by
  simp only [channelSse_eq_sum, squaredDifference_comm]

@[simp] theorem channelSse_self (ch : ColorChannel) (a : DecodedBlock) : channelSse ch a a = 0 := by
  simp [channelSse_eq_sum]

/-- A channel sum fits the 20 bits of its register (R35). -/
theorem channelSse_le (ch : ColorChannel) (a b : DecodedBlock) : channelSse ch a b ≤ sseMax := by
  rw [channelSse_eq_sum]
  refine (Finset.sum_le_card_nsmul Finset.univ _ 65025 fun i _ => squaredDifference_le _ _).trans ?_
  simp [sseMax]

theorem channelSse_le_msse (ch : ColorChannel) (a b : DecodedBlock) : channelSse ch a b ≤ msse a b := by
  cases ch <;> simp [msse]

theorem msse_le (a b : DecodedBlock) : msse a b ≤ sseMax := by
  simp [msse, channelSse_le]

theorem msse_comm (a b : DecodedBlock) : msse a b = msse b a := by
  simp only [msse, channelSse_comm]

@[simp] theorem msse_self (a : DecodedBlock) : msse a a = 0 := by simp [msse]

/-! ## The infinity clamp (R153) -/

@[simp] theorem psnrch_zero : psnrch 0 = psnrInf := rfl

theorem psnrch_of_pos {s : Nat} (h : 1 ≤ s) : psnrch s = Config.psnrch s := if_neg (by omega)

/-! ## The trackers (R172) -/

@[simp] theorem Tracker.observe_worst (t : Tracker) (j m : Nat) :
    (t.observe j m).worst = if t.worst < m then m else t.worst := rfl
@[simp] theorem Tracker.observe_best (t : Tracker) (j m : Nat) :
    (t.observe j m).best = if t.accepts m then j else t.best := rfl
@[simp] theorem Tracker.observe_bestSse (t : Tracker) (j m : Nat) :
    (t.observe j m).bestSse = if t.accepts m then some m else t.bestSse := rfl

/-! ## The histogram (R172) -/

/-- One increment: the chosen counter goes up by one, the others stay. -/
theorem bumpCounter_get (h : Vector (BitVec 32) 52) (k j : Fin 52) :
    (bumpCounter h k)[j] = if k = j then h[j] + 1 else h[j] := by
  simp only [bumpCounter, Fin.getElem_fin, Vector.getElem_set, Fin.ext_iff]
  split_ifs with hk <;> simp_all

/-! ## The report row (R95) -/

@[simp] theorem ReportRow.word_zero (r : ReportRow) : r.word 0 = r.minPsnr := rfl
@[simp] theorem ReportRow.word_one (r : ReportRow) : r.word 1 = r.maxPsnr := rfl
@[simp] theorem ReportRow.word_two (r : ReportRow) : r.word 2 = pairWord r.index r.best := rfl
@[simp] theorem ReportRow.word_three (r : ReportRow) :
    r.word 3 = pairWord (blockX r.bpr r.index) (blockY r.bpr r.index) := rfl
@[simp] theorem ReportRow.word_four (r : ReportRow) :
    r.word 4 = pairWord (blockX r.bpr r.best) (blockY r.bpr r.best) := rfl
@[simp] theorem ReportRow.word_six (r : ReportRow) : r.word 6 = 0 := rfl
@[simp] theorem ReportRow.word_seven (r : ReportRow) : r.word 7 = 0 := rfl

/-- Two u32 fields in one word, as the sum the rule writes (R172). -/
theorem pairWord_toNat (low high : Nat) :
    (pairWord low high).toNat = low % 2 ^ 32 + high % 2 ^ 32 * 2 ^ 32 := by
  simp only [pairWord, BitVec.toNat_ofNat]; omega

/-- The field in bits 31:0 of a pair. -/
theorem pairWord_low_toNat (low high : Nat) : ((pairWord low high).extractLsb' 0 32).toNat = low % 2 ^ 32 := by
  rw [BitVec.extractLsb'_toNat, pairWord_toNat, Nat.shiftRight_zero, Nat.add_mul_mod_self_right, Nat.mod_mod]

/-- The field in bits 63:32 of a pair. -/
theorem pairWord_high_toNat (low high : Nat) : ((pairWord low high).extractLsb' 32 32).toNat = high % 2 ^ 32 := by
  rw [BitVec.extractLsb'_toNat, pairWord_toNat, Nat.shiftRight_eq_div_pow,
    Nat.add_mul_div_right _ _ (by decide), Nat.div_eq_of_lt (Nat.mod_lt _ (by decide)), Nat.zero_add, Nat.mod_mod]

/-- The number word 5 of a row stands for, its fields and zero fields nested. -/
theorem ReportRow.word_five_toNat (r : ReportRow) (hb : r.bestSse < 2 ^ 20) (hw : r.worstSse < 2 ^ 20) :
    (r.word 5).toNat =
      r.bestSse + 2 ^ 20 * (2 ^ 12 * (r.worstSse + 2 ^ 20 * (2 ^ 11 * r.paired.toNat))) := by
  have hp : r.paired.toNat ≤ 1 := Bool.toNat_le r.paired
  rw [ReportRow.word, BitVec.toNat_ofNat, Nat.mod_eq_of_lt] <;> omega

/-- Bits 31:20 of word 5 are zero. -/
theorem ReportRow.word_five_zero_low (r : ReportRow) (hb : r.bestSse < 2 ^ 20) (hw : r.worstSse < 2 ^ 20) :
    (r.word 5).extractLsb' 20 12 = 0 := by
  apply BitVec.eq_of_toNat_eq
  rw [BitVec.extractLsb'_toNat, r.word_five_toNat hb hw, Nat.shiftRight_eq_div_pow,
    Nat.add_mul_div_left _ _ (by decide), Nat.div_eq_of_lt hb, Nat.zero_add, Nat.mul_mod_right]
  rfl

/-- Bits 62:52 of word 5 are zero. -/
theorem ReportRow.word_five_zero_high (r : ReportRow) (hb : r.bestSse < 2 ^ 20) (hw : r.worstSse < 2 ^ 20) :
    (r.word 5).extractLsb' 52 11 = 0 := by
  apply BitVec.eq_of_toNat_eq
  rw [BitVec.extractLsb'_toNat, r.word_five_toNat hb hw, Nat.shiftRight_eq_div_pow,
    show (2 : Nat) ^ 52 = 2 ^ 20 * 2 ^ 12 * 2 ^ 20 from rfl, ← Nat.div_div_eq_div_mul, ← Nat.div_div_eq_div_mul,
    Nat.add_mul_div_left _ _ (by decide), Nat.div_eq_of_lt hb, Nat.zero_add, Nat.mul_div_cancel_left _ (by decide),
    Nat.add_mul_div_left _ _ (by decide), Nat.div_eq_of_lt hw, Nat.zero_add, Nat.mul_mod_right]
  rfl

end Sys2Proof.Machine
end

