-- ==== Sys2Proof/Laws/Analyzer.lean ====
section
/-! SUPPORT. What the trackers and the histogram of a report hold, once for all later proofs. -/

namespace Sys2Proof.Machine

/-! ## Best-match tracking (R172, R174) -/

/-- One more comparison, or none where the row meets itself. -/
theorem trackRow_succ (n : Nat) (sse : Nat → Nat → Nat) (i : Nat) :
    trackRow (n + 1) sse i =
      if n = i then trackRow n sse i else (trackRow n sse i).observe n (sse i n) := by
  simp [trackRow, List.range_succ]

/-- What the trackers of row `i` hold after `n` blocks: the start values if no other block was met; otherwise the
least SSE, the last block with that SSE, and the largest SSE, each of some block met. -/
theorem trackRow_spec (n : Nat) (sse : Nat → Nat → Nat) (i : Nat) :
    (∀ j, j < n → j ≠ i → sse i j ≤ (trackRow n sse i).worst) ∧
    ((trackRow n sse i = ⟨0, i, none⟩ ∧ ∀ j, j < n → j = i) ∨
      ∃ b, (trackRow n sse i).bestSse = some b ∧ (trackRow n sse i).best < n ∧ (trackRow n sse i).best ≠ i ∧
        sse i (trackRow n sse i).best = b ∧ (∃ j, j < n ∧ j ≠ i ∧ sse i j = (trackRow n sse i).worst) ∧
        ∀ j, j < n → j ≠ i → b ≤ sse i j ∧ (sse i j = b → j ≤ (trackRow n sse i).best)) := by
  induction n with
  | zero => exact ⟨fun j hj => absurd hj (by omega), .inl ⟨rfl, fun j hj => absurd hj (by omega)⟩⟩
  | succ n ih =>
    rw [trackRow_succ]
    obtain ⟨hworst, hbest⟩ := ih
    by_cases hn : n = i
    · rw [if_pos hn]
      refine ⟨fun j hj hne => hworst j (by omega) hne, ?_⟩
      rcases hbest with ⟨ht, hall⟩ | ⟨b, h1, h2, h3, h4, ⟨j, hj, hji, hjw⟩, h6⟩
      · refine .inl ⟨ht, fun j hj => ?_⟩
        by_cases hjn : j = n
        · omega
        · exact hall j (by omega)
      · exact .inr ⟨b, h1, by omega, h3, h4, ⟨j, by omega, hji, hjw⟩, fun j hj hne => h6 j (by omega) hne⟩
    · rw [if_neg hn]
      simp only [Tracker.observe_worst, Tracker.observe_best, Tracker.observe_bestSse]
      refine ⟨fun j hj hne => ?_, .inr ?_⟩
      · by_cases hjn : j = n
        · subst hjn; split <;> omega
        · have := hworst j (by omega) hne
          split <;> omega
      · rcases hbest with ⟨ht, hall⟩ | ⟨b, h1, h2, h3, h4, ⟨j, hj, hji, hjw⟩, h6⟩
        · have hacc : (trackRow n sse i).accepts (sse i n) = true := by rw [ht]; rfl
          rw [hacc, show (trackRow n sse i).worst = 0 by rw [ht]]
          refine ⟨sse i n, rfl, by simp, by simpa using hn, by simp, ⟨n, by omega, hn, ?_⟩, fun j hj hne => ?_⟩
          · split <;> omega
          · have : j = n := by
              by_contra hc
              exact hne (hall j (by omega))
            subst this; simp
        · have hw : ∃ k, k < n + 1 ∧ k ≠ i ∧
              sse i k = if (trackRow n sse i).worst < sse i n then sse i n else (trackRow n sse i).worst := by
            split
            · exact ⟨n, by omega, hn, rfl⟩
            · exact ⟨j, by omega, hji, hjw⟩
          by_cases hle : sse i n ≤ b
          · have hacc : (trackRow n sse i).accepts (sse i n) = true := by simp [Tracker.accepts, h1, hle]
            rw [hacc]
            refine ⟨sse i n, rfl, by simp, by simpa using hn, by simp, hw, fun k hk hne => ?_⟩
            by_cases hkn : k = n
            · subst hkn; simp
            · have := h6 k (by omega) hne
              simp; omega
          · have hacc : (trackRow n sse i).accepts (sse i n) = false := by simp [Tracker.accepts, h1]; omega
            rw [hacc]
            refine ⟨b, h1, by simp; omega, by simpa using h3, by simpa using h4, hw, fun k hk hne => ?_⟩
            by_cases hkn : k = n
            · subst hkn; omega
            · have := h6 k (by omega) hne
              simpa using this

/-! ## The histogram (R172, R179) -/

/-- A counter of a report of two or more blocks is the number of rows in its bucket. -/
theorem histogram_get (n : Nat) (f : Nat → Nat) (h2 : 2 ≤ n) (hlt : n < 2 ^ 32) (k : Fin 52) :
    (histogram n f)[k].toNat = ((List.range n).filter fun i => bucketS (f i) = k).length := by
  have key : ∀ m, m ≤ n →
      (((List.range m).foldl (fun h i => if 2 ≤ n then bumpCounter h (bucketS (f i)) else h)
        (Vector.replicate 52 0))[k]).toNat = ((List.range m).filter fun i => bucketS (f i) = k).length := by
    intro m
    induction m with
    | zero => intro _; simp
    | succ m ih =>
      intro hm
      have hind := ih (by omega)
      have hl : ((List.range m).filter fun i => bucketS (f i) = k).length ≤ m := by
        simpa using List.length_filter_le (fun i => decide (bucketS (f i) = k)) (List.range m)
      rw [List.range_succ, List.foldl_append, List.filter_append, List.length_append, ← hind]
      simp only [List.foldl_cons, List.foldl_nil, if_pos h2, bumpCounter_get] at *
      by_cases hk : bucketS (f m) = k
      · simp only [hk, if_true, BitVec.toNat_add, hind]
        simp [hk]
        omega
      · simp [hk]
  exact key n (le_refl _)

/-- With fewer than two blocks no counter goes up (R173). -/
theorem histogram_of_lt_two (n : Nat) (f : Nat → Nat) (h : n < 2) : histogram n f = Vector.replicate 52 0 := by
  have : n = 0 ∨ n = 1 := by omega
  rcases this with rfl | rfl <;> rfl

/-! ## The report (R95, R172) -/

/-- What ANALYZE leaves in word `w` of row `i`. -/
theorem State.rptWord_buildReport_row (s : State) (i w : Nat) (hi : i < s.nblk.toNat) (hw : w < 8) :
    s.buildReport.rptWord (8 * i + w) = (s.row i).word w := by
  have h1 : (8 * i + w) / 8 = i := by omega
  have h2 : (8 * i + w) % 8 = w := by omega
  rw [State.rptWord_buildReport, if_pos (by omega), h1, h2]

end Sys2Proof.Machine
end

