-- ==== Sys2Proof/Laws/Decoder.lean ====
section
/-! SUPPORT. The small lemmas of the decoder unit's functions. -/

namespace Sys2Proof.Machine

/-- The clamp of R121 never acts on a shifted field (R122). -/
theorem shiftExpand_toNat (field shift : Nat) : (shiftExpand field shift).toNat = min 255 (field * 2 ^ shift) := by
  simp only [shiftExpand, BitVec.toNat_ofNat]; omega

/-- The truncated third fits a channel without a clamp (R132, R137). -/
theorem mixThird_toNat (p q : Channel) : (mixThird p q).toNat = (2 * p.toNat + q.toNat) / 3 := by
  simp only [mixThird, BitVec.toNat_ofNat]; omega

@[simp] theorem mixColor_r (p q : Color) : (mixColor p q).r = mixThird p.r q.r := rfl
@[simp] theorem mixColor_g (p q : Color) : (mixColor p q).g = mixThird p.g q.g := rfl
@[simp] theorem mixColor_b (p q : Color) : (mixColor p q).b = mixThird p.b q.b := rfl

theorem packColor_toNat (c : Color) :
    (packColor c).toNat = c.r.toNat + 2 ^ 8 * c.g.toNat + 2 ^ 16 * c.b.toNat := by
  simp only [packColor, BitVec.toNat_ofNat]; omega

/-- The Color of a packed Color (R94). -/
@[simp] theorem colorOfWord_packColor (c : Color) : colorOfWord (packColor c) = c := by
  cases c
  simp only [colorOfWord, Color.mk.injEq]
  refine ⟨?_, ?_, ?_⟩ <;> apply BitVec.eq_of_toNat_eq <;>
    simp only [BitVec.extractLsb'_toNat, packColor_toNat, Nat.shiftRight_eq_div_pow] <;> omega

@[simp] theorem palette_zero (blk : PackedBlock) : (palette blk)[0] = unpack565 blk.endpointA := rfl
@[simp] theorem palette_one (blk : PackedBlock) : (palette blk)[1] = unpack565 blk.endpointB := rfl
@[simp] theorem palette_two (blk : PackedBlock) :
    (palette blk)[2] = mixColor (unpack565 blk.endpointA) (unpack565 blk.endpointB) := rfl
@[simp] theorem palette_three (blk : PackedBlock) :
    (palette blk)[3] = mixColor (unpack565 blk.endpointB) (unpack565 blk.endpointA) := rfl

/-- Texel `i` of a decoded block is the palette entry its code selects (R135). -/
theorem decodeBlock_get (blk : PackedBlock) (i : Nat) (h : i < 16) :
    (decodeBlock blk)[i] = paletteEntry (palette blk) (texelCode blk.indices i) := by
  simp [decodeBlock]

/-- The texel DECMIP writes at word `16i + j` (R140). -/
theorem State.mipTexel_eq (s : State) (i j : Nat) (h : j < 16) :
    s.mipTexel (16 * i + j) = packColor (decodeBlock (blockOfWord (s.pmWord i)))[j] := by
  have h1 : (16 * i + j) / 16 = i := by omega
  have h2 : (16 * i + j) % 16 = j := by omega
  simp only [State.mipTexel, h1, h2]

end Sys2Proof.Machine
end

