-- ==== Sys2Proof/Laws/PerInstr.lean ====
section
/-! SUPPORT. The statements made for each instruction separately, about the instruction as syntax. -/

namespace Sys2Proof.Laws

/-- Bit 100 of an instruction's record, `kind`, is 0 for HRD and 1 for everything else (R110, R112). -/
def RecordKind.Statement (i : Instr) : Prop :=
  recordKind (encode i) = match i with
    | .hrd _ _ => false
    | _ => true

/-- `kind` is the bit an access record was built with (R110). -/
theorem recordKind_accessRecord (kind : Bool) (space : BitVec 4) (off : BitVec 32) (data : Word) :
    recordKind (accessRecord kind space off data) = kind := by
  have h1 := space.isLt
  have h2 := off.isLt
  have h3 := data.isLt
  cases kind <;>
    simp only [recordKind, accessRecord, BitVec.getLsbD, BitVec.toNat_ofNat, Nat.testBit_eq_decide_div_mod_eq,
      Bool.toNat_false, Bool.toNat_true, decide_eq_true_eq, decide_eq_false_iff_not] <;> omega

theorem RecordKind.unpack565 (imm16 : BitVec 16) : RecordKind.Statement (.unpack565 imm16) :=
  recordKind_accessRecord _ _ _ _

theorem RecordKind.decblk : RecordKind.Statement .decblk := recordKind_accessRecord _ _ _ _

theorem RecordKind.decmip : RecordKind.Statement .decmip := recordKind_accessRecord _ _ _ _

theorem RecordKind.psnr (a b : BitVec 24) : RecordKind.Statement (.psnr a b) := recordKind_accessRecord _ _ _ _

theorem RecordKind.analyze : RecordKind.Statement .analyze := recordKind_accessRecord _ _ _ _

theorem RecordKind.srst : RecordKind.Statement .srst := recordKind_accessRecord _ _ _ _

theorem RecordKind.hwr (space : BitVec 4) (off : BitVec 32) (data : Word) :
    RecordKind.Statement (.hwr space off data) := recordKind_accessRecord _ _ _ _

theorem RecordKind.hrd (space : BitVec 4) (off : BitVec 32) : RecordKind.Statement (.hrd space off) :=
  recordKind_accessRecord _ _ _ _

end Sys2Proof.Laws
end

