-- ==== Sys2Proof/Laws/Encoding.lean ====
section
/-! SUPPORT. What the fields of a built record and of a built command word are. -/

namespace Sys2Proof

/-! ## Access records (R110) -/

/-- The number an access record stands for, its fields nested. -/
theorem accessRecord_toNat (kind : Bool) (space : BitVec 4) (off : BitVec 32) (data : Word) :
    (accessRecord kind space off data).toNat =
      data.toNat + 2 ^ 64 * (off.toNat + 2 ^ 32 * (space.toNat + 2 ^ 4 * kind.toNat)) := by
  have h1 := space.isLt
  have h2 := off.isLt
  have h3 := data.isLt
  have hk : kind.toNat ≤ 1 := Bool.toNat_le kind
  rw [accessRecord, BitVec.toNat_ofNat, Nat.mod_eq_of_lt] <;> omega

@[simp] theorem recordKind_accessRecord (kind : Bool) (space : BitVec 4) (off : BitVec 32) (data : Word) :
    recordKind (accessRecord kind space off data) = kind := Laws.recordKind_accessRecord _ _ _ _

@[simp] theorem recordData_accessRecord (kind : Bool) (space : BitVec 4) (off : BitVec 32) (data : Word) :
    recordData (accessRecord kind space off data) = data := by
  apply BitVec.eq_of_toNat_eq
  rw [recordData, BitVec.extractLsb'_toNat, accessRecord_toNat, Nat.shiftRight_zero, Nat.add_mul_mod_self_left,
    Nat.mod_eq_of_lt data.isLt]

@[simp] theorem recordOff_accessRecord (kind : Bool) (space : BitVec 4) (off : BitVec 32) (data : Word) :
    recordOff (accessRecord kind space off data) = off := by
  apply BitVec.eq_of_toNat_eq
  rw [recordOff, BitVec.extractLsb'_toNat, accessRecord_toNat, Nat.shiftRight_eq_div_pow,
    Nat.add_mul_div_left _ _ (by decide), Nat.div_eq_of_lt data.isLt, Nat.zero_add, Nat.add_mul_mod_self_left,
    Nat.mod_eq_of_lt off.isLt]

@[simp] theorem recordSpace_accessRecord (kind : Bool) (space : BitVec 4) (off : BitVec 32) (data : Word) :
    recordSpace (accessRecord kind space off data) = space := by
  apply BitVec.eq_of_toNat_eq
  rw [recordSpace, BitVec.extractLsb'_toNat, accessRecord_toNat, Nat.shiftRight_eq_div_pow,
    show (2 : Nat) ^ 96 = 2 ^ 64 * 2 ^ 32 from rfl, ← Nat.div_div_eq_div_mul, Nat.add_mul_div_left _ _ (by decide),
    Nat.div_eq_of_lt data.isLt, Nat.zero_add, Nat.add_mul_div_left _ _ (by decide), Nat.div_eq_of_lt off.isLt,
    Nat.zero_add, Nat.add_mul_mod_self_left, Nat.mod_eq_of_lt space.isLt]

/-! ## Command words (R96) -/

/-- The number a command word stands for. -/
theorem commandWord_toNat (op : BitVec 8) (a b : BitVec 24) :
    (commandWord op a b).toNat = op.toNat + a.toNat * 2 ^ 8 + b.toNat * 2 ^ 32 := by
  have h1 := op.isLt
  have h2 := a.isLt
  have h3 := b.isLt
  rw [commandWord, BitVec.toNat_ofNat, Nat.mod_eq_of_lt]
  omega

@[simp] theorem commandA_commandWord (op : BitVec 8) (a b : BitVec 24) : commandA (commandWord op a b) = a := by
  apply BitVec.eq_of_toNat_eq
  have h1 := op.isLt
  have h2 := a.isLt
  rw [commandA, BitVec.extractLsb'_toNat, commandWord_toNat, Nat.shiftRight_eq_div_pow]
  omega

@[simp] theorem commandB_commandWord (op : BitVec 8) (a b : BitVec 24) : commandB (commandWord op a b) = b := by
  apply BitVec.eq_of_toNat_eq
  have h1 := op.isLt
  have h2 := a.isLt
  have h3 := b.isLt
  rw [commandB, BitVec.extractLsb'_toNat, commandWord_toNat, Nat.shiftRight_eq_div_pow]
  omega

end Sys2Proof
end

