-- ==== Sys2Proof/Laws/State.lean ====
section
/-! SUPPORT. The small lemmas of State: one per field for each named update of a state. -/

namespace Sys2Proof.Machine

variable (s : State)

/-! ## Taking the next host event -/

@[simp] theorem State.takeEvent_err (rest : List HostEvent) : (s.takeEvent rest).err = s.err := rfl

@[simp] theorem State.takeEvent_blk (rest : List HostEvent) : (s.takeEvent rest).blk = s.blk := rfl

@[simp] theorem State.takeEvent_color (rest : List HostEvent) : (s.takeEvent rest).color = s.color := rfl

@[simp] theorem State.takeEvent_width (rest : List HostEvent) : (s.takeEvent rest).width = s.width := rfl

@[simp] theorem State.takeEvent_height (rest : List HostEvent) : (s.takeEvent rest).height = s.height := rfl

@[simp] theorem State.takeEvent_buflen (rest : List HostEvent) : (s.takeEvent rest).buflen = s.buflen := rfl

@[simp] theorem State.takeEvent_nblk (rest : List HostEvent) : (s.takeEvent rest).nblk = s.nblk := rfl

@[simp] theorem State.takeEvent_bpr (rest : List HostEvent) : (s.takeEvent rest).bpr = s.bpr := rfl

@[simp] theorem State.takeEvent_sseR (rest : List HostEvent) : (s.takeEvent rest).sseR = s.sseR := rfl

@[simp] theorem State.takeEvent_sseG (rest : List HostEvent) : (s.takeEvent rest).sseG = s.sseG := rfl

@[simp] theorem State.takeEvent_sseB (rest : List HostEvent) : (s.takeEvent rest).sseB = s.sseB := rfl

@[simp] theorem State.takeEvent_psnrv (rest : List HostEvent) : (s.takeEvent rest).psnrv = s.psnrv := rfl

@[simp] theorem State.takeEvent_nrpt (rest : List HostEvent) : (s.takeEvent rest).nrpt = s.nrpt := rfl

@[simp] theorem State.takeEvent_tex (rest : List HostEvent) : (s.takeEvent rest).tex = s.tex := rfl

@[simp] theorem State.takeEvent_hist (rest : List HostEvent) : (s.takeEvent rest).hist = s.hist := rfl

@[simp] theorem State.takeEvent_pm (rest : List HostEvent) : (s.takeEvent rest).pm = s.pm := rfl

@[simp] theorem State.takeEvent_bs (rest : List HostEvent) : (s.takeEvent rest).bs = s.bs := rfl

@[simp] theorem State.takeEvent_rpt (rest : List HostEvent) : (s.takeEvent rest).rpt = s.rpt := rfl

@[simp] theorem State.takeEvent_epoch (rest : List HostEvent) : (s.takeEvent rest).epoch = s.epoch := rfl

@[simp] theorem State.takeEvent_reports (rest : List HostEvent) : (s.takeEvent rest).reports = s.reports := rfl

@[simp] theorem State.takeEvent_pending (rest : List HostEvent) : (s.takeEvent rest).pending = rest := rfl

@[simp] theorem State.takeEvent_response (rest : List HostEvent) : (s.takeEvent rest).response = none := rfl

/-! ## Placing an access -/

@[simp] theorem State.withFetchWord_err (n w : Nat) : (s.withFetchWord n w).err = s.err := rfl

@[simp] theorem State.withFetchWord_blk (n w : Nat) : (s.withFetchWord n w).blk = s.blk := rfl

@[simp] theorem State.withFetchWord_color (n w : Nat) : (s.withFetchWord n w).color = s.color := rfl

@[simp] theorem State.withFetchWord_width (n w : Nat) : (s.withFetchWord n w).width = s.width := rfl

@[simp] theorem State.withFetchWord_height (n w : Nat) : (s.withFetchWord n w).height = s.height := rfl

@[simp] theorem State.withFetchWord_buflen (n w : Nat) : (s.withFetchWord n w).buflen = s.buflen := rfl

@[simp] theorem State.withFetchWord_nblk (n w : Nat) : (s.withFetchWord n w).nblk = s.nblk := rfl

@[simp] theorem State.withFetchWord_bpr (n w : Nat) : (s.withFetchWord n w).bpr = s.bpr := rfl

@[simp] theorem State.withFetchWord_sseR (n w : Nat) : (s.withFetchWord n w).sseR = s.sseR := rfl

@[simp] theorem State.withFetchWord_sseG (n w : Nat) : (s.withFetchWord n w).sseG = s.sseG := rfl

@[simp] theorem State.withFetchWord_sseB (n w : Nat) : (s.withFetchWord n w).sseB = s.sseB := rfl

@[simp] theorem State.withFetchWord_psnrv (n w : Nat) : (s.withFetchWord n w).psnrv = s.psnrv := rfl

@[simp] theorem State.withFetchWord_nrpt (n w : Nat) : (s.withFetchWord n w).nrpt = s.nrpt := rfl

@[simp] theorem State.withFetchWord_tex (n w : Nat) : (s.withFetchWord n w).tex = s.tex := rfl

@[simp] theorem State.withFetchWord_hist (n w : Nat) : (s.withFetchWord n w).hist = s.hist := rfl

@[simp] theorem State.withFetchWord_pm (n w : Nat) : (s.withFetchWord n w).pm = s.pm := rfl

@[simp] theorem State.withFetchWord_bs (n w : Nat) : (s.withFetchWord n w).bs = s.bs := rfl

@[simp] theorem State.withFetchWord_rpt (n w : Nat) : (s.withFetchWord n w).rpt = s.rpt := rfl

@[simp] theorem State.withFetchWord_epoch (n w : Nat) : (s.withFetchWord n w).epoch = s.epoch := rfl

@[simp] theorem State.withFetchWord_reports (n w : Nat) : (s.withFetchWord n w).reports = s.reports := rfl

@[simp] theorem State.withFetchWord_pending (n w : Nat) :
    (s.withFetchWord n w).pending = .access (recordOfTableWord n w) :: s.pending := rfl

@[simp] theorem State.withFetchWord_response (n w : Nat) : (s.withFetchWord n w).response = s.response := rfl

/-! ## Reset (R230) -/

@[simp] theorem State.performReset_err : (s.performReset).err = 0 := rfl

@[simp] theorem State.performReset_blk : (s.performReset).blk = 0 := rfl

@[simp] theorem State.performReset_color : (s.performReset).color = 0 := rfl

@[simp] theorem State.performReset_width : (s.performReset).width = 0 := rfl

@[simp] theorem State.performReset_height : (s.performReset).height = 0 := rfl

@[simp] theorem State.performReset_buflen : (s.performReset).buflen = 0 := rfl

@[simp] theorem State.performReset_nblk : (s.performReset).nblk = 0 := rfl

@[simp] theorem State.performReset_bpr : (s.performReset).bpr = 0 := rfl

@[simp] theorem State.performReset_sseR : (s.performReset).sseR = 0 := rfl

@[simp] theorem State.performReset_sseG : (s.performReset).sseG = 0 := rfl

@[simp] theorem State.performReset_sseB : (s.performReset).sseB = 0 := rfl

@[simp] theorem State.performReset_psnrv : (s.performReset).psnrv = 0 := rfl

@[simp] theorem State.performReset_nrpt : (s.performReset).nrpt = 0 := rfl

@[simp] theorem State.performReset_tex : (s.performReset).tex = Vector.replicate 16 0 := rfl

@[simp] theorem State.performReset_hist : (s.performReset).hist = Vector.replicate 52 0 := rfl

@[simp] theorem State.performReset_pm : (s.performReset).pm = [] := rfl

@[simp] theorem State.performReset_bs : (s.performReset).bs = [] := rfl

@[simp] theorem State.performReset_rpt : (s.performReset).rpt = [] := rfl

@[simp] theorem State.performReset_epoch : (s.performReset).epoch = s.epoch + 1 := rfl

@[simp] theorem State.performReset_reports : (s.performReset).reports = s.reports := rfl

@[simp] theorem State.performReset_pending : (s.performReset).pending = s.pending := rfl

@[simp] theorem State.performReset_response : (s.performReset).response = s.response := rfl

/-! ## The decode of DECMIP (R140) -/

@[simp] theorem State.decodeMip_err : (s.decodeMip).err = s.err := rfl

@[simp] theorem State.decodeMip_blk : (s.decodeMip).blk = s.blk := rfl

@[simp] theorem State.decodeMip_color : (s.decodeMip).color = s.color := rfl

@[simp] theorem State.decodeMip_width : (s.decodeMip).width = s.width := rfl

@[simp] theorem State.decodeMip_height : (s.decodeMip).height = s.height := rfl

@[simp] theorem State.decodeMip_buflen : (s.decodeMip).buflen = s.buflen := rfl

@[simp] theorem State.decodeMip_nblk : (s.decodeMip).nblk = BitVec.ofNat 32 (gridBlocks s.width s.height) := rfl

@[simp] theorem State.decodeMip_bpr : (s.decodeMip).bpr = BitVec.ofNat 32 (gridCount s.width) := rfl

@[simp] theorem State.decodeMip_sseR : (s.decodeMip).sseR = s.sseR := rfl

@[simp] theorem State.decodeMip_sseG : (s.decodeMip).sseG = s.sseG := rfl

@[simp] theorem State.decodeMip_sseB : (s.decodeMip).sseB = s.sseB := rfl

@[simp] theorem State.decodeMip_psnrv : (s.decodeMip).psnrv = s.psnrv := rfl

@[simp] theorem State.decodeMip_nrpt : (s.decodeMip).nrpt = s.nrpt := rfl

@[simp] theorem State.decodeMip_tex : (s.decodeMip).tex = s.tex := rfl

@[simp] theorem State.decodeMip_hist : (s.decodeMip).hist = s.hist := rfl

@[simp] theorem State.decodeMip_pm : (s.decodeMip).pm = s.pm := rfl

@[simp] theorem State.decodeMip_bs :
    (s.decodeMip).bs = s.bs.writeRange 0 (16 * gridBlocks s.width s.height) s.mipTexel := rfl

@[simp] theorem State.decodeMip_rpt : (s.decodeMip).rpt = s.rpt := rfl

@[simp] theorem State.decodeMip_epoch : (s.decodeMip).epoch = s.epoch := rfl

@[simp] theorem State.decodeMip_reports : (s.decodeMip).reports = s.reports := rfl

@[simp] theorem State.decodeMip_pending : (s.decodeMip).pending = s.pending := rfl

@[simp] theorem State.decodeMip_response : (s.decodeMip).response = s.response := rfl

/-! ## The results of PSNR (R150) -/

@[simp] theorem State.withPsnr_err (a b : DecodedBlock) : (s.withPsnr a b).err = s.err := by
  simp only [State.withPsnr]

@[simp] theorem State.withPsnr_blk (a b : DecodedBlock) : (s.withPsnr a b).blk = s.blk := by
  simp only [State.withPsnr]

@[simp] theorem State.withPsnr_color (a b : DecodedBlock) : (s.withPsnr a b).color = s.color := by
  simp only [State.withPsnr]

@[simp] theorem State.withPsnr_width (a b : DecodedBlock) : (s.withPsnr a b).width = s.width := by
  simp only [State.withPsnr]

@[simp] theorem State.withPsnr_height (a b : DecodedBlock) : (s.withPsnr a b).height = s.height := by
  simp only [State.withPsnr]

@[simp] theorem State.withPsnr_buflen (a b : DecodedBlock) : (s.withPsnr a b).buflen = s.buflen := by
  simp only [State.withPsnr]

@[simp] theorem State.withPsnr_nblk (a b : DecodedBlock) : (s.withPsnr a b).nblk = s.nblk := by
  simp only [State.withPsnr]

@[simp] theorem State.withPsnr_bpr (a b : DecodedBlock) : (s.withPsnr a b).bpr = s.bpr := by
  simp only [State.withPsnr]

@[simp] theorem State.withPsnr_sseR (a b : DecodedBlock) :
    (s.withPsnr a b).sseR = BitVec.ofNat 20 (channelSse .r a b) := by
  simp only [State.withPsnr]

@[simp] theorem State.withPsnr_sseG (a b : DecodedBlock) :
    (s.withPsnr a b).sseG = BitVec.ofNat 20 (channelSse .g a b) := by
  simp only [State.withPsnr]

@[simp] theorem State.withPsnr_sseB (a b : DecodedBlock) :
    (s.withPsnr a b).sseB = BitVec.ofNat 20 (channelSse .b a b) := by
  simp only [State.withPsnr]

@[simp] theorem State.withPsnr_psnrv (a b : DecodedBlock) : (s.withPsnr a b).psnrv = psnrch (msse a b) := by
  simp only [State.withPsnr]

@[simp] theorem State.withPsnr_nrpt (a b : DecodedBlock) : (s.withPsnr a b).nrpt = s.nrpt := by
  simp only [State.withPsnr]

@[simp] theorem State.withPsnr_tex (a b : DecodedBlock) : (s.withPsnr a b).tex = s.tex := by
  simp only [State.withPsnr]

@[simp] theorem State.withPsnr_hist (a b : DecodedBlock) : (s.withPsnr a b).hist = s.hist := by
  simp only [State.withPsnr]

@[simp] theorem State.withPsnr_pm (a b : DecodedBlock) : (s.withPsnr a b).pm = s.pm := by
  simp only [State.withPsnr]

@[simp] theorem State.withPsnr_bs (a b : DecodedBlock) : (s.withPsnr a b).bs = s.bs := by
  simp only [State.withPsnr]

@[simp] theorem State.withPsnr_rpt (a b : DecodedBlock) : (s.withPsnr a b).rpt = s.rpt := by
  simp only [State.withPsnr]

@[simp] theorem State.withPsnr_epoch (a b : DecodedBlock) : (s.withPsnr a b).epoch = s.epoch := by
  simp only [State.withPsnr]

@[simp] theorem State.withPsnr_reports (a b : DecodedBlock) : (s.withPsnr a b).reports = s.reports := by
  simp only [State.withPsnr]

@[simp] theorem State.withPsnr_pending (a b : DecodedBlock) : (s.withPsnr a b).pending = s.pending := by
  simp only [State.withPsnr]

@[simp] theorem State.withPsnr_response (a b : DecodedBlock) : (s.withPsnr a b).response = s.response := by
  simp only [State.withPsnr]

/-! ## The report of ANALYZE (R172) -/

@[simp] theorem State.buildReport_err : (s.buildReport).err = s.err := rfl

@[simp] theorem State.buildReport_blk : (s.buildReport).blk = s.blk := rfl

@[simp] theorem State.buildReport_color : (s.buildReport).color = s.color := rfl

@[simp] theorem State.buildReport_width : (s.buildReport).width = s.width := rfl

@[simp] theorem State.buildReport_height : (s.buildReport).height = s.height := rfl

@[simp] theorem State.buildReport_buflen : (s.buildReport).buflen = s.buflen := rfl

@[simp] theorem State.buildReport_nblk : (s.buildReport).nblk = s.nblk := rfl

@[simp] theorem State.buildReport_bpr : (s.buildReport).bpr = s.bpr := rfl

@[simp] theorem State.buildReport_sseR : (s.buildReport).sseR = s.sseR := rfl

@[simp] theorem State.buildReport_sseG : (s.buildReport).sseG = s.sseG := rfl

@[simp] theorem State.buildReport_sseB : (s.buildReport).sseB = s.sseB := rfl

@[simp] theorem State.buildReport_psnrv : (s.buildReport).psnrv = s.psnrv := rfl

@[simp] theorem State.buildReport_nrpt : (s.buildReport).nrpt = s.nblk := rfl

@[simp] theorem State.buildReport_tex : (s.buildReport).tex = s.tex := rfl

@[simp] theorem State.buildReport_hist : (s.buildReport).hist = histogram s.nblk.toNat fun i => (s.row i).bestSse := rfl

@[simp] theorem State.buildReport_pm : (s.buildReport).pm = s.pm := rfl

@[simp] theorem State.buildReport_bs : (s.buildReport).bs = s.bs := rfl

@[simp] theorem State.buildReport_rpt : (s.buildReport).rpt =
    (s.rpt.writeRange 0 (8 * s.nblk.toNat) fun k => (s.row (k / 8)).word (k % 8)).writeRange
      (8 * s.nblk.toNat) (8 * s.nrpt.toNat - 8 * s.nblk.toNat) fun k => s.retiredWord (8 * s.nblk.toNat + k) := rfl

@[simp] theorem State.buildReport_epoch : (s.buildReport).epoch = s.epoch := rfl

@[simp] theorem State.buildReport_reports : (s.buildReport).reports = s.reports + 1 := rfl

@[simp] theorem State.buildReport_pending : (s.buildReport).pending = s.pending := rfl

@[simp] theorem State.buildReport_response : (s.buildReport).response = s.response := rfl

/-! ## Raising an error (R204) -/

@[simp] theorem State.raise_err (e : ErrorCode) : (s.raise e).err = if s.err = 0 then e.code else s.err := by
  unfold State.raise; split <;> rfl

@[simp] theorem State.raise_blk (e : ErrorCode) : (s.raise e).blk = s.blk := by
  unfold State.raise; split <;> rfl

@[simp] theorem State.raise_color (e : ErrorCode) : (s.raise e).color = s.color := by
  unfold State.raise; split <;> rfl

@[simp] theorem State.raise_width (e : ErrorCode) : (s.raise e).width = s.width := by
  unfold State.raise; split <;> rfl

@[simp] theorem State.raise_height (e : ErrorCode) : (s.raise e).height = s.height := by
  unfold State.raise; split <;> rfl

@[simp] theorem State.raise_buflen (e : ErrorCode) : (s.raise e).buflen = s.buflen := by
  unfold State.raise; split <;> rfl

@[simp] theorem State.raise_nblk (e : ErrorCode) : (s.raise e).nblk = s.nblk := by
  unfold State.raise; split <;> rfl

@[simp] theorem State.raise_bpr (e : ErrorCode) : (s.raise e).bpr = s.bpr := by
  unfold State.raise; split <;> rfl

@[simp] theorem State.raise_sseR (e : ErrorCode) : (s.raise e).sseR = s.sseR := by
  unfold State.raise; split <;> rfl

@[simp] theorem State.raise_sseG (e : ErrorCode) : (s.raise e).sseG = s.sseG := by
  unfold State.raise; split <;> rfl

@[simp] theorem State.raise_sseB (e : ErrorCode) : (s.raise e).sseB = s.sseB := by
  unfold State.raise; split <;> rfl

@[simp] theorem State.raise_psnrv (e : ErrorCode) : (s.raise e).psnrv = s.psnrv := by
  unfold State.raise; split <;> rfl

@[simp] theorem State.raise_nrpt (e : ErrorCode) : (s.raise e).nrpt = s.nrpt := by
  unfold State.raise; split <;> rfl

@[simp] theorem State.raise_tex (e : ErrorCode) : (s.raise e).tex = s.tex := by
  unfold State.raise; split <;> rfl

@[simp] theorem State.raise_hist (e : ErrorCode) : (s.raise e).hist = s.hist := by
  unfold State.raise; split <;> rfl

@[simp] theorem State.raise_pm (e : ErrorCode) : (s.raise e).pm = s.pm := by
  unfold State.raise; split <;> rfl

@[simp] theorem State.raise_bs (e : ErrorCode) : (s.raise e).bs = s.bs := by
  unfold State.raise; split <;> rfl

@[simp] theorem State.raise_rpt (e : ErrorCode) : (s.raise e).rpt = s.rpt := by
  unfold State.raise; split <;> rfl

@[simp] theorem State.raise_epoch (e : ErrorCode) : (s.raise e).epoch = s.epoch := by
  unfold State.raise; split <;> rfl

@[simp] theorem State.raise_reports (e : ErrorCode) : (s.raise e).reports = s.reports := by
  unfold State.raise; split <;> rfl

@[simp] theorem State.raise_pending (e : ErrorCode) : (s.raise e).pending = s.pending := by
  unfold State.raise; split <;> rfl

@[simp] theorem State.raise_response (e : ErrorCode) : (s.raise e).response = s.response := by
  unfold State.raise; split <;> rfl

end Sys2Proof.Machine
end

