-- ==== Sys2Proof/Tests/Slice0.lean ====
section
/-! SUPPORT. The model's own tests: decoding of words written out from the encodings, one or two vectors of
spec/95_test_vectors.md per instruction, the checks of WellFormed, and for every statement with hypotheses a
witness that meets them. -/

open Sys2Proof Sys2Proof.Machine

namespace Sys2Proof.Tests

/-- Whether an outcome is a next state with a property. -/
def answers (o : Host.Outcome State Fault Refusal) (p : State → Bool) : Bool :=
  match o with
  | .next t => p t
  | .fault _ => false
  | .refused _ => false

/-- A collection of blocks of one colour each, in BS from block 0 up. -/
def flatBlocks (colors : List (BitVec 24)) : Memory 24 :=
  Memory.writeRange [] 0 (16 * colors.length) fun k => colors.getD (k / 16) 0

/-! ## WellFormed -/

/-- A write of a command word to CMD is the command, not an HWR (R24, R112): refused. -/
theorem test_wellFormed_refuses_command_write : Instr.wellFormed (.hwr 0 0 0x0000000000000002) = false := by decide

/-- A write of an illegal word to CMD is an HWR (V-I9). -/
theorem test_wellFormed_accepts_illegal_write : Instr.wellFormed (.hwr 0 0 0x000000000000010F) = true := by decide

/-! ## Decode: records and words of Parts B and C of the test vectors -/

/-- P1 step 17. -/
theorem test_decode_unpack565 : decode 0x10000000000000000000001F01 = .unpack565 0x001F := by decide
/-- P1 step 4. -/
theorem test_decode_decblk : decode 0x10000000000000000000000002 = .decblk := by decide
/-- P2 step 8. -/
theorem test_decode_decmip : decode 0x10000000000000000000000003 = .decmip := by decide
/-- P2 step 14. -/
theorem test_decode_psnr : decode 0x10000000000000000300000004 = .psnr 0 3 := by decide
/-- V-Q14, every operand bit set. -/
theorem test_decode_psnr_full : decodeCommand 0x00FFFFFFFFFFFF04 = .ok (.psnr 0xFFFFFF 0xFFFFFF) := by decide
/-- P2 step 17. -/
theorem test_decode_analyze : decode 0x10000000000000000000000005 = .analyze := by decide
/-- V-R4. -/
theorem test_decode_srst : decode 0x1000000000000000000000000F = .srst := by decide
/-- P3 step 3. -/
theorem test_decode_hwr : decode 0x1100000002FFFFFFFF0000FFFF = .hwr 1 2 0xFFFFFFFF0000FFFF := by decide
/-- V-H34, the largest offset. -/
theorem test_decode_hwr_far : decode 0x12FFFFFFFF0000000000000000 = .hwr 2 0xFFFFFFFF 0 := by decide
/-- P1 step 6. -/
theorem test_decode_hrd : decode 0x000000001F0000000000000000 = .hrd 0 31 := by decide
/-- The illegal words V-I1 to V-I13. -/
theorem test_decode_illegal :
    ([0x0000000000000000, 0x0000000000000006, 0x000000000000000E, 0x0000000000000010, 0x00000000000000FF,
      0x0000000000000102, 0x0000000100000003, 0x0000000000000105, 0x000000000000010F, 0x0000000001000001,
      0x0000000100000001, 0x0100000000000004, 0x8000000000000002] : List Word).all
        (fun w => decodeCommand w == .error .illegalCommand) = true := by decide
/-- The first row of the table by its number alone, and a word of no row. -/
theorem test_decodeTableWord : decodeTableWord 64 0x0000000000ABCD01 = some (.unpack565 0xABCD) ∧
    decodeTableWord 64 0x000000000000010F = none ∧
    decodeTableWord 104 0x020000003F0000000000000000 = some (.hrd 2 63) := by decide
/-- R112's `PSNR a, b` word and R110's record for P3 step 23. -/
theorem test_encode_psnr : encode (.psnr 1 2) = 0x10000000000000000200000104 := by decide
/-- P1 step 11, through the pseudo-instruction LDBLK (R113). -/
theorem test_asmLdblk : asmLdblk ⟨0xF800, 0x001F, 0x1B1B1B1B⟩ = [.hwr 0 3 0x1B1B1B1B001FF800] := by decide

/-! ## UNPACK565 -/

/-- V-U12. -/
theorem test_unpack565 : answers (exec (.unpack565 0xABCD) State.reset) (·.color == 0x6878A8) = true := by decide
/-- V-U2 through the step: not `0xFFFFFF`. -/
theorem test_unpack565_step :
    answers (step (State.reset.withFetchWord 64 0x0000000000FFFF01)) (·.color == 0xF8FCF8) = true := by decide

/-! ## DECBLK -/

/-- V-D12. -/
theorem test_decblk : answers (exec .decblk { State.reset with blk := 0x12345678ABCD1234 }) (fun t => t.tex ==
    #v[0xA04410, 0x8D5542, 0x7A6675, 0x6878A8, 0x8D5542, 0x6878A8, 0x6878A8, 0x6878A8,
      0xA04410, 0x6878A8, 0x7A6675, 0xA04410, 0x8D5542, 0xA04410, 0x6878A8, 0xA04410]) = true := by decide
/-- V-D7: bits 31:30 are texel 15. -/
theorem test_decblk_last : answers (exec .decblk { State.reset with blk := 0xC0000000001FF800 })
    (fun t => t.tex[15] == 0xA50052 && t.tex[14] == 0x0000F8) = true := by decide

/-! ## DECMIP -/

/-- V-M26 with block 1 of P3: a 2 by 1 level is one whole block. -/
theorem test_decmip : answers
    (exec .decmip { State.reset with width := 2, height := 1, buflen := 8, pm := [(0, 0x000000E4001FF800)] })
    (fun t => t.err == 0 && t.nblk == 1 && t.bpr == 1 && t.bsWord 1 == 0xF80000 && t.bsWord 3 == 0xA50052 &&
      t.bsWord 15 == 0x0000F8) = true := by decide
/-- V-M20: right after reset the length is wrong. -/
theorem test_decmip_length : answers (exec .decmip State.reset) (·.err == 2) = true := by decide

/-! ## PSNR -/

/-- V-Q5. -/
theorem test_psnr : answers
    (exec (.psnr 0 1) { State.reset with nblk := 2, bs := flatBlocks [0x000000, 0x030201] })
    (fun t => t.sseR == 16 && t.sseG == 64 && t.sseB == 144) = true := by decide
/-- V-Q13. -/
theorem test_psnr_operand :
    answers (exec (.psnr 0 2) { State.reset with nblk := 2 }) (·.err == 4) = true := by decide

/-! ## ANALYZE -/

/-- V-A1: both blocks in bucket 0, coordinates in one column. -/
theorem test_analyze : answers
    (exec .analyze { State.reset with nblk := 2, bpr := 1, bs := flatBlocks [0x000000, 0xFFFFFF] })
    (fun t => t.nrpt == 2 && t.hist[0] == 2 && t.hist[1] == 0 && t.rptWord 2 == 0x0000000100000000 &&
      t.rptWord 4 == 0x0000000400000000 && t.rptWord 5 == 0x800FE010000FE010 &&
      t.rptWord 10 == 0x0000000000000001 && t.rptWord 11 == 0x0000000400000000) = true := by decide
/-- V-S2 and V-A4: four equal blocks, the last one found wins. -/
theorem test_analyze_ties : answers
    (exec .analyze { State.reset with nblk := 4, bpr := 2, bs := flatBlocks (List.replicate 4 0x0000F8) })
    (fun t => t.hist[51] == 4 && t.rptWord 1 == 0x7FEFFFFFFFFFFFFF && t.rptWord 2 == 0x0000000300000000 &&
      t.rptWord 26 == 0x0000000200000003 && t.rptWord 27 == 0x0000000400000004) = true := by decide

/-! ## SRST -/

/-- V-R4. -/
theorem test_srst : answers (exec .srst { State.reset with err := 6, blk := 1, nblk := 1 })
    (fun t => t.err == 0 && t.blk == 0 && t.nblk == 0) = true := by decide

/-! ## HWR -/

/-- V-H28: the width check comes before the capacity check. -/
theorem test_hwr_width_first : answers (exec (.hwr 0 8 0x0000000100000000) State.reset) (·.err == 4) = true := by
  decide
/-- V-R5: a near-SRST word while halted is ignored. -/
theorem test_hwr_near_srst :
    answers (exec (.hwr 0 0 0x10F) { State.reset with err := 6, blk := 1 }) (fun t => t.err == 6 && t.blk == 1) =
      true := by decide

/-! ## HRD -/

/-- V-H9: an unmapped read raises and returns 0. -/
theorem test_hrd_unmapped :
    answers (exec (.hrd 0 15) State.reset) (fun t => t.err == 6 && t.response == some 0) = true := by decide
/-- A read through the step, after `WR BLK, 0x0123456789ABCDEF` (B8, read-back). -/
theorem test_hrd_step : answers
    (step ({ State.reset with blk := 0x0123456789ABCDEF }.withFetchWord 104 0x00000000030000000000000000))
    (fun t => t.response == some 0x0123456789ABCDEF && t.err == 0) = true := by decide

/-! ## Witnesses: states and operands that meet the hypotheses of each statement, clause by clause

A statement whose only hypothesis is `s.err = 0` has the reset state. -/

/-- A machine that has met an error: BusError. -/
def haltedState : State := { State.reset with err := 6 }

/-- A collection of `n` blocks with `bpr` blocks per row. -/
def collection (n bpr : BitVec 32) : State := { State.reset with nblk := n, bpr := bpr }

/-- The offset NB_MAX, as a host writes it. -/
def capacityOff : BitVec 32 := BitVec.ofNat 32 Config.nbMax

theorem capacityOff_toNat : capacityOff.toNat = Config.nbMax := by
  have := Config.nbMax_le
  simp only [capacityOff, BitVec.toNat_ofNat]; omega

theorem nbMax_pos : 0 < Config.nbMax := Config.one_le_nbMax

/-- ExternalResetDoesWhatSrstDoes. -/
theorem witness_external_reset :
    ({ haltedState with pending := [.reset] } : State).pending = .reset :: [] := rfl

/-- Unpack565WritesShiftedFields, DecblkWritesSixteenTexels, and every other statement with `err = 0` alone. -/
theorem witness_running : State.reset.err = 0 := rfl

/-- Unpack565IsInjective: two equal results. -/
theorem witness_unpack_equal : unpack565 0xFFFF = unpack565 0xFFFF := rfl

/-- PaletteStaysBetweenEndpoints: equal endpoints (V-L5). -/
theorem witness_equal_endpoints : (⟨0x8410, 0x8410, 0⟩ : PackedBlock).endpointA = 0x8410 ∧
    (⟨0x8410, 0x8410, 0⟩ : PackedBlock).endpointB = 0x8410 := ⟨rfl, rfl⟩

/-- DecmipDecodesWholeMipLevel: the smallest level, V-M1 with its length. -/
theorem witness_decmip : let s : State := { State.reset with buflen := 8 }
    s.err = 0 ∧ s.buflen.toNat = 8 * (max 4 s.width.toNat / 4 * (max 4 s.height.toNat / 4)) ∧
      max 4 s.width.toNat / 4 * (max 4 s.height.toNat / 4) ≤ Config.nbMax :=
  ⟨rfl, by decide, Config.one_le_nbMax⟩

/-- DecmipChecksLengthThenCapacity, first clause: V-M20. -/
theorem witness_decmip_length : State.reset.buflen.toNat ≠ 8 * gridBlocks State.reset.width State.reset.height := by
  decide

/-- DecmipChecksLengthThenCapacity, second clause: V-M13. -/
theorem witness_decmip_capacity :
    let s : State := { State.reset with width := 4294967295, height := 4, buflen := 8589934584 }
    s.buflen.toNat = 8 * gridBlocks s.width s.height ∧ Config.nbMax < gridBlocks s.width s.height := by
  refine ⟨by decide, lt_of_le_of_lt Config.nbMax_le ?_⟩
  decide

/-- PsnrWritesChannelSumsAndWorstPsnr: the last block of a one-block collection. -/
theorem witness_psnr : (collection 1 1).err = 0 ∧ (0 : BitVec 24).toNat < (collection 1 1).nblk.toNat := by decide

/-- PsnrRefusesBlockNumbersPastNblk: the first block number past the collection, on either side. -/
theorem witness_psnr_operand : (collection 1 1).err = 0 ∧ (collection 1 1).nblk.toNat ≤ (1 : BitVec 24).toNat := by
  decide

/-- PsnrSymmetryIdentityMonotonicity: a block of zeros against the same with one texel's red at 1, and at 2. -/
theorem witness_differBy (d : Fin 256) : let a : DecodedBlock := Vector.replicate 16 ⟨0, 0, 0⟩
    DifferBy a (a.set 0 ⟨BitVec.ofNat 8 d, 0, 0⟩) 0 .r d := by
  refine ⟨fun i c h => ?_, ?_⟩
  · have : ∀ i : Fin 16, i ≠ 0 →
        ((Vector.replicate 16 (⟨0, 0, 0⟩ : Color)).set 0 ⟨BitVec.ofNat 8 d, 0, 0⟩)[i] = ⟨0, 0, 0⟩ := by
      intro i hi
      rw [Fin.getElem_fin, Vector.getElem_set_ne _ _ (by omega), Vector.getElem_replicate]
    by_cases hi : i = 0
    · subst hi
      cases c
      · simp at h
      · rfl
      · rfl
    · rw [this i hi]; simp
  · have := d.isLt
    simp [Color.channel]

/-- PsnrInfIsLargestFinite: a finite pattern, and both ends of the range of an SSE. -/
theorem witness_finite : isFinite64 0 = true ∧ (1 : Nat) ≤ 1 ∧ 1 ≤ sseMax ∧ sseMax ≤ sseMax := by decide

/-- HeldPatternsAreZeroOrNormal: each kind of pattern. -/
theorem witness_held : IsPsnrValue psnrInf ∧ IsPsnrValue (psnrch sseMax) :=
  ⟨⟨0, Nat.zero_le _, rfl⟩, ⟨sseMax, le_refl _, rfl⟩⟩

/-- AnalyzeBuildsReportOfR172, AnalyzeWritesCoordinatesAndFrame, AnalyzeOfOneBlock: a collection of one block. -/
theorem witness_analyze_one : (collection 1 1).err = 0 ∧ (collection 1 1).nblk = 1 ∧ (collection 1 1).nblk ≠ 0 ∧
    (collection 1 1).nblk.toNat ≤ Config.nbMax ∧ (collection 1 1).bpr ≠ 0 :=
  ⟨rfl, rfl, by decide, Config.one_le_nbMax, by decide⟩

/-- AnalyzeWritesCoordinatesAndFrame: one block after a report of two, so that one row falls out of the report, and
the first word past both reports. -/
theorem witness_analyze_shorter : let s : State := { collection 1 1 with nrpt := 2 }
    s.err = 0 ∧ s.nblk ≠ 0 ∧ s.nblk.toNat ≤ Config.nbMax ∧ s.bpr ≠ 0 ∧ s.nblk.toNat < s.nrpt.toNat ∧
      8 * s.nblk.toNat ≤ 16 ∧ 8 * s.nrpt.toNat ≤ 16 :=
  ⟨rfl, by decide, Config.one_le_nbMax, by decide, by decide, by decide, by decide⟩

/-- AnalyzeReportInIntegers: two blocks, the least the statement speaks of. -/
theorem witness_analyze_two : (collection 2 1).err = 0 ∧ (collection 2 1).bpr ≠ 0 ∧
    2 ≤ (collection 2 1).nblk.toNat ∧ (collection 2 1).nblk ≠ 0 := by decide

/-- AnalyzeChecksEmptyThenBpr: the empty collection, and one block with BPR 0 (V-A9). -/
theorem witness_analyze_checks : State.reset.nblk = 0 ∧ (collection 1 0).nblk ≠ 0 ∧ (collection 1 0).bpr = 0 := by
  decide

/-- AnalyzeConservesCountsAndExcludesSelf, last clause: four equal blocks (V-S2). -/
theorem witness_analyze_equal : let s : State := { collection 4 2 with bs := flatBlocks (List.replicate 4 0x0000F8) }
    s.err = 0 ∧ s.nblk = 4 ∧ s.bpr ≠ 0 ∧ ∀ i, i < 4 → s.blockAt i = s.blockAt 0 := by
  refine ⟨rfl, rfl, by decide, fun i hi => ?_⟩
  interval_cases i <;> rfl

/-- AnalyzeDependsOnCollectionOnly: two states that differ in BLK and in a BS word past the collection. -/
theorem witness_analyze_same_collection : let s : State := collection 1 1
    let u : State := { collection 1 1 with blk := 1, bs := [(16, 5)] }
    s.err = 0 ∧ u.err = 0 ∧ s.nblk = u.nblk ∧ s.bpr = u.bpr ∧ s.nblk ≠ 0 ∧ s.bpr ≠ 0 ∧
      ∀ k, k < 16 * s.nblk.toNat → s.bsWord k = u.bsWord k := by
  refine ⟨rfl, rfl, rfl, rfl, by decide, by decide, fun k hk => ?_⟩
  have hk' : k < 16 := hk
  simp only [State.bsWord, collection, Memory.read?, if_neg (show ¬16 = k by omega)]
  rfl

/-- IntegerBucketAgreesWithRounding: both ends of the range, and the last SSE of bucket 51 (V-T7, B5). -/
theorem witness_bucket : bucketS 9 = 51 ∧ bucketS 10 = 50 ∧ bucketS 585060 = 2 ∧ bucketS sseMax = 0 ∧
    (0 : Nat) ≤ sseMax := by decide

/-- HostWriteChangesOnlyItsPlace: a command word, the widest data each place takes, the first and last offsets. -/
theorem witness_host_write : decodeCommand 0x0000000000000002 = .ok .decblk ∧
    (0x00000000FFFFFFFF : Word).toNat < 2 ^ 32 ∧ (0x0000000000FFFFFF : Word).toNat < 2 ^ 24 ∧
    (BitVec.ofNat 64 Config.nbMax).toNat ≤ Config.nbMax ∧ (0 : BitVec 32).toNat < Config.nbMax ∧
    (capacityOff - 1).toNat < Config.nbMax ∧ (15 : BitVec 32).toNat < 16 * Config.nbMax := by
  have h1 := Config.one_le_nbMax
  have h2 := Config.nbMax_le
  have h3 := capacityOff_toNat
  refine ⟨by decide, by decide, by decide, ?_, nbMax_pos, ?_, ?_⟩
  · simp only [BitVec.toNat_ofNat]; omega
  · bv_omega
  · show 15 < 16 * Config.nbMax; omega

/-- HostWriteRefusesDataThatDoesNotFit: the narrowest data that does not fit, a count above every capacity, an
illegal word. -/
theorem witness_host_write_wide : 2 ^ 32 ≤ (0x0000000100000000 : Word).toNat ∧
    2 ^ 24 ≤ (0x0000000001000000 : Word).toNat ∧ (0 : BitVec 32).toNat < 16 * Config.nbMax ∧
    (0x0000000001000001 : Word).toNat < 2 ^ 32 ∧ Config.nbMax < (0x0000000001000001 : Word).toNat ∧
    isCommandWord 0 = false := by
  have h1 := Config.one_le_nbMax
  have h2 := Config.nbMax_le
  refine ⟨by decide, by decide, ?_, by decide, lt_of_le_of_lt h2 (by decide), by decide⟩
  show 0 < 16 * Config.nbMax; omega

/-- HostWriteOutsideTheMapRaisesBusError and HostReadOfUnmappedAddressReturnsZero: each kind of unmapped address at
its first value. -/
theorem witness_unmapped : Unmapped 5 0 ∧ Unmapped 15 0 ∧ Unmapped 0 15 ∧ Unmapped 0 32 ∧
    Unmapped 1 capacityOff ∧ Unmapped 2 (16 * capacityOff) ∧ Unmapped 3 (8 * capacityOff) ∧ Unmapped 4 52 := by
  have h2 := Config.nbMax_le
  have h3 := capacityOff_toNat
  refine ⟨by simp [Unmapped], by simp [Unmapped], by simp [Unmapped], by simp [Unmapped], ?_, ?_, ?_,
    by simp [Unmapped]⟩
  · exact .inr (.inr (.inl ⟨rfl, h3.ge⟩))
  · refine .inr (.inr (.inr (.inl ⟨rfl, ?_⟩))); bv_omega
  · refine .inr (.inr (.inr (.inr (.inl ⟨rfl, ?_⟩)))); bv_omega

/-- HostWriteOutsideTheMapRaisesBusError: each kind of read-only place, at the ends of its range. -/
theorem witness_readOnly : ReadOnly 0 1 ∧ ReadOnly 0 2 ∧ ReadOnly 0 4 ∧ ReadOnly 0 10 ∧ ReadOnly 0 14 ∧
    ReadOnly 0 16 ∧ ReadOnly 0 31 ∧ ReadOnly 3 0 ∧ ReadOnly 4 0 ∧ ReadOnly 4 51 := by
  have h := Config.one_le_nbMax
  refine ⟨by simp [ReadOnly], by simp [ReadOnly], by simp [ReadOnly], by simp [ReadOnly], by simp [ReadOnly],
    by simp [ReadOnly], by simp [ReadOnly], .inr (.inl ⟨rfl, ?_⟩), by simp [ReadOnly], by simp [ReadOnly]⟩
  show 0 < 8 * Config.nbMax; omega

/-- HostReadServesEveryMappedWord: the last TEX register, the first words of the memories, the last counter. -/
theorem witness_host_read : (31 : BitVec 32).toNat = 16 + (15 : Fin 16) ∧ (0 : BitVec 32).toNat < Config.nbMax ∧
    (15 : BitVec 32).toNat < 16 * Config.nbMax ∧ (7 : BitVec 32).toNat < 8 * Config.nbMax ∧
    (51 : BitVec 32).toNat = (51 : Fin 52) := by
  have h := Config.one_le_nbMax
  refine ⟨by decide, nbMax_pos, ?_, ?_, by decide⟩
  · show 15 < 16 * Config.nbMax; omega
  · show 7 < 8 * Config.nbMax; omega

/-- WrittenPmWordIsReadBack: a script of one write and one read of PM. -/
theorem witness_read_back :
    let s : State := { State.reset with pending := [.access (encode (.hwr 1 0 7)), .access (encode (.hrd 1 0))] }
    s.err = 0 ∧ (0 : BitVec 32).toNat < Config.nbMax ∧
      s.pending = .access (encode (.hwr 1 0 7)) :: .access (encode (.hrd 1 0)) :: [] := ⟨rfl, nbMax_pos, rfl⟩

/-- IllegalWordsRaiseIllegalCommand: one word of each kind (V-I1, V-I12, V-I10, V-I6). -/
theorem witness_illegal : (0x0000000000000000 : Word).extractLsb' 0 8 = 0 ∧
    (0x0100000000000004 : Word).extractLsb' 56 8 ≠ 0 ∧
    ((0x0000000001000001 : Word).extractLsb' 8 24).extractLsb' 16 8 ≠ 0 ∧
    (0x0000000000000102 : Word).extractLsb' 8 24 ≠ 0 := by decide

/-- ErrorsArePrecise: a command and a read that raise. -/
theorem witness_errors : (∃ t, exec .decmip State.reset = .next t ∧ t.err ≠ 0) ∧
    ∃ t, exec (.hrd 5 0) State.reset = .next t ∧ t.err ≠ 0 := by
  refine ⟨⟨_, rfl, by decide⟩, ⟨_, rfl, by decide⟩⟩

/-- HaltedMachineIgnoresWrites, with a write that is not SRST. -/
theorem witness_halted : haltedState.err ≠ 0 ∧ (0x000000000000010F : Word) ≠ 0x000000000000000F := by decide

/-- A halted machine whose next event is a read of ERR. -/
def haltedReader : State := { haltedState with pending := [.access (encode (.hrd 0 1))] }

/-- OnlyResetLeavesHaltedCondition: a halted machine whose next event is a read. -/
theorem witness_halted_step : haltedReader.err ≠ 0 ∧ (∃ t, step haltedReader = .next t) ∧
    (∀ rest, haltedReader.pending ≠ .reset :: rest) ∧
    ∀ r rest, haltedReader.pending = .access r :: rest → decode r ≠ .srst := by
  have hp : haltedReader.pending = [.access (encode (.hrd 0 1))] := rfl
  refine ⟨by decide, ⟨_, rfl⟩, ?_, ?_⟩
  · intro rest; rw [hp]; simp
  · intro r rest h
    rw [hp, List.cons.injEq, HostEvent.access.injEq] at h
    rw [← h.1]; decide

/-- EachPlaceHasItsWriters: an instruction that completes. -/
theorem witness_writers : Instr.wellFormed .decblk = true ∧ Instr.decblk ≠ .srst ∧
    ∃ t, exec .decblk State.reset = .next t := ⟨rfl, by decide, _, rfl⟩

/-- StepRunsDecodedAccess: a script with one access, and the empty script. -/
theorem witness_step : (State.reset.withFetchWord 64 2).pending = .access (recordOfTableWord 64 2) :: [] ∧
    decode (recordOfTableWord 64 2) = .decblk ∧ State.reset.pending = [] := ⟨rfl, by decide, rfl⟩

/-- InvariantIsKeptByEveryStep: a state with something in it, that steps. -/
theorem witness_invariant : let s : State := { State.reset with blk := 1, bs := [(0, 5)] }
    s.Inv ∧ ∃ t, step s = .next t := by
  refine ⟨?_, _, rfl⟩
  have h := Config.one_le_nbMax
  refine ⟨by decide, Nat.zero_le _, Nat.zero_le _, by decide, .inl rfl, ⟨List.Pairwise.nil, ?_⟩,
    ⟨List.pairwise_singleton _ _, ?_⟩, ⟨List.Pairwise.nil, ?_⟩, ?_, ?_, ?_⟩
  · intro c hc; cases hc
  · intro c hc
    rw [List.mem_singleton.1 hc]
    show 0 < 16 * Config.nbMax; omega
  · intro c hc; cases hc
  · intro k v hk; cases hk
  · intro k hk; cases hk
  · exact le_trans (show histTotal (Vector.replicate 52 0) ≤ 0 by decide) (Nat.zero_le _)

/-- DecodeOfEncodeIsIdentity: a command and two host writes, one of them an illegal word to CMD. -/
theorem witness_wellFormed : Instr.wellFormed (.psnr 0xFFFFFF 0) = true ∧
    Instr.wellFormed (.hwr 15 0xFFFFFFFF 0) = true ∧ Instr.wellFormed (.hwr 0 0 0) = true := by decide

/-- EncodeOfDecodeIsIdentity: a write record and a read record with data bits. -/
theorem witness_records : (0x1000000000FFFFFFFFFFFFFFFF : Record).getLsbD 100 = true ∧
    (0x0000000000FFFFFFFFFFFFFFFF : Record).getLsbD 100 = false := by decide

/-- CommandWordFieldsAreReadAsTheyStand: a word of each format, its fields at their largest. -/
theorem witness_command_words : (0x0000000000FFFF01 : Word).extractLsb' 56 8 = 0 ∧
    (0x0000000000FFFF01 : Word).extractLsb' 0 8 = 1 ∧
    ((0x0000000000FFFF01 : Word).extractLsb' 8 24).extractLsb' 16 8 = 0 ∧
    (0x0000000000FFFF01 : Word).extractLsb' 32 24 = 0 ∧
    (0x00FFFFFFFFFFFF04 : Word).extractLsb' 56 8 = 0 ∧ (0x00FFFFFFFFFFFF04 : Word).extractLsb' 0 8 = 4 ∧
    (0x000000000000000F : Word).extractLsb' 0 8 = 0x0F := by decide

/-- PlacedCommandWordRunsNext: a command word with operands. -/
theorem witness_placed : decodeCommand 0x0000000200000104 = .ok (.psnr 1 2) := by decide

end Sys2Proof.Tests
end

/-! # Proofs: the step of the machine -/

namespace Sys2Proof.Machine

/-! ## One equation per head of the host's script -/

/-- R111, R231: with nothing from the host the hardware waits. -/
theorem step_of_no_event {s : State} (h : s.pending = []) : step s = .next s := by
  rw [step, h]

/-- R230: an external reset event is taken off the script and performed. -/
theorem step_of_reset {s : State} {rest : List HostEvent} (h : s.pending = .reset :: rest) :
    step s = .next (s.takeEvent rest).performReset := by
  rw [step, h]

/-- R13, R14: an access is taken off the script and served as the instruction its record decodes to. -/
theorem step_of_access {s : State} {r : Record} {rest : List HostEvent}
    (h : s.pending = .access r :: rest) : step s = exec (decode r) (s.takeEvent rest) := by
  rw [step, h]

/-- Settles O42: the equations of `step` for an access and for the empty script. The state after `takeEvent` is the
one the statement writes out. -/
theorem stepRunsDecodedAccess : Obligations.StepRunsDecodedAccess := by
  refine ⟨fun s r rest i hpending hdecode => ?_, fun s hpending => step_of_no_event hpending⟩
  calc step s = exec (decode r) (s.takeEvent rest) := step_of_access hpending
    _ = exec i { s with pending := rest, response := none } := by rw [hdecode, State.takeEvent]

end Sys2Proof.Machine

/-! # Proofs: what each instruction can do -/

namespace Sys2Proof

/-! ## Decoding answers well-formed instructions (R24, R110, R112) -/

/-- A well-formed `hwr` is no write of a command word to CMD. -/
theorem Instr.wellFormed_hwr {space : BitVec 4} {off : BitVec 32} {data : Word} :
    (Instr.hwr space off data).wellFormed = true ↔ (isCmdAddress space off && isCommandWord data) = false := by
  rw [Instr.wellFormed, Bool.not_eq_true']

theorem Command.toInstr_wellFormed (c : Command) : c.toInstr.wellFormed = true := by cases c <;> rfl

/-- A command word written to CMD is never decoded to an `hwr`. -/
theorem decode_wellFormed (r : Record) : (decode r).wellFormed = true := by
  unfold decode
  split
  · split
    · split
      · next c _ => exact c.toInstr_wellFormed
      · next e herror =>
        cases e
        simp [Instr.wellFormed, (Machine.decodeCommand_error_iff _).1 herror]
    · next hcmd => simp [Instr.wellFormed, hcmd]
  · rfl

/-! ## Placing a command word (R24, R112) -/

theorem isCommandWord_of_decodeCommand_ok {w : Word} {c : Command} (h : decodeCommand w = .ok c) :
    isCommandWord w = true := by
  by_contra hno
  rw [(Machine.decodeCommand_error_iff w).2 (Bool.eq_false_iff.2 hno)] at h
  cases h

theorem recordOfTableWord_of_word (w : Word) : recordOfTableWord 64 w.toNat = accessRecord true 0 0 w := by
  simp [recordOfTableWord]

theorem decode_commandWrite {w : Word} {c : Command} (h : decodeCommand w = .ok c) :
    decode (accessRecord true 0 0 w) = c.toInstr := by
  simp [decode, isCmdAddress, h]

end Sys2Proof

namespace Sys2Proof.Machine

/-- Settles O50: the placed record is the write of the word to CMD, which decodes to the command. -/
theorem placedCommandWordRunsNext : Obligations.PlacedCommandWordRunsNext := by
  intro s w c hc
  have hdecode : decode (recordOfTableWord 64 w.toNat) = c.toInstr := by
    rw [recordOfTableWord_of_word, decode_commandWrite hc]
  constructor
  · simp [decodeTableWord, hdecode, isCommandWord_of_decodeCommand_ok hc, w.isLt]
  · rw [step_of_access (s.withFetchWord_pending 64 w.toNat), hdecode]
    rfl

/-! ## Everything a step can do -/

/-- A step waits, takes an external reset, or serves an access as the well-formed instruction it decodes to. -/
theorem step_cases {s t : State} (h : step s = .next t) :
    (s.pending = [] ∧ t = s) ∨
      (∃ rest, s.pending = .reset :: rest ∧ t = (s.takeEvent rest).performReset) ∨
      (∃ r rest, s.pending = .access r :: rest ∧ exec (decode r) (s.takeEvent rest) = .next t) := by
  match hp : s.pending with
  | [] =>
    rw [step_of_no_event hp] at h
    cases h
    exact .inl ⟨rfl, rfl⟩
  | .reset :: rest =>
    rw [step_of_reset hp] at h
    cases h
    exact .inr (.inl ⟨rest, rfl, rfl⟩)
  | .access r :: rest =>
    rw [step_of_access hp] at h
    exact .inr (.inr ⟨r, rest, rfl, h⟩)

/-! ## Everything each command can do

Each is ignored while halted (R205), raises one error, or has its effect. -/

theorem whenRunning_cases {s t : State} {body : State → State} (h : t = whenRunning s body) :
    (s.err ≠ 0 ∧ t = s) ∨ (s.err = 0 ∧ t = body s) := by
  by_cases hr : s.err = 0
  · exact .inr ⟨hr, h.trans (whenRunning_of_running hr body)⟩
  · exact .inl ⟨hr, h.trans (whenRunning_of_halted hr body)⟩

theorem execUnpack565_cases {imm16 : BitVec 16} {s t : State} (h : execUnpack565 imm16 s = .next t) :
    (s.err ≠ 0 ∧ t = s) ∨ (s.err = 0 ∧ t = { s with color := packColor (unpack565 imm16) }) := by
  cases h
  exact whenRunning_cases rfl

theorem execDecblk_cases {s t : State} (h : execDecblk s = .next t) :
    (s.err ≠ 0 ∧ t = s) ∨
      (s.err = 0 ∧
        t = { s with tex := Vector.ofFn fun i : Fin 16 => packColor (decodeBlock (blockOfWord s.blk))[i] }) := by
  cases h
  exact whenRunning_cases rfl

theorem execDecmip_cases {s t : State} (h : execDecmip s = .next t) :
    (s.err ≠ 0 ∧ t = s) ∨ (s.err = 0 ∧ ∃ e, t = s.raise e) ∨
      (s.err = 0 ∧ s.buflen.toNat = 8 * gridBlocks s.width s.height ∧
        gridBlocks s.width s.height ≤ Config.nbMax ∧ t = s.decodeMip) := by
  cases h
  rcases whenRunning_cases rfl with hhalted | ⟨hr, ht⟩
  · exact .inl hhalted
  · refine .inr ?_
    rw [ht]
    split_ifs with hlen hcap
    · exact .inl ⟨hr, _, rfl⟩
    · exact .inl ⟨hr, _, rfl⟩
    · exact .inr ⟨hr, not_not.1 hlen, not_lt.1 hcap, rfl⟩

theorem execPsnr_cases {a b : BitVec 24} {s t : State} (h : execPsnr a b s = .next t) :
    (s.err ≠ 0 ∧ t = s) ∨ (s.err = 0 ∧ ∃ e, t = s.raise e) ∨
      (s.err = 0 ∧ a.toNat < s.nblk.toNat ∧ b.toNat < s.nblk.toNat ∧
        t = s.withPsnr (s.blockAt a.toNat) (s.blockAt b.toNat)) := by
  cases h
  rcases whenRunning_cases rfl with hhalted | ⟨hr, ht⟩
  · exact .inl hhalted
  · refine .inr ?_
    rw [ht]
    split_ifs with hrange
    · exact .inl ⟨hr, _, rfl⟩
    · obtain ⟨ha, hb⟩ := not_or.1 hrange
      exact .inr ⟨hr, not_le.1 ha, not_le.1 hb, rfl⟩

theorem execAnalyze_cases {s t : State} (h : execAnalyze s = .next t) :
    (s.err ≠ 0 ∧ t = s) ∨ (s.err = 0 ∧ ∃ e, t = s.raise e) ∨
      (s.err = 0 ∧ s.nblk ≠ 0 ∧ s.bpr ≠ 0 ∧ t = s.buildReport) := by
  cases h
  rcases whenRunning_cases rfl with hhalted | ⟨hr, ht⟩
  · exact .inl hhalted
  · refine .inr ?_
    rw [ht]
    split_ifs with hempty hbpr
    · exact .inl ⟨hr, _, rfl⟩
    · exact .inl ⟨hr, _, rfl⟩
    · exact .inr ⟨hr, hempty, hbpr, rfl⟩

/-- Settles O41, instruction by instruction: in each of the ways it can end, the fields it does not write are those
of the state before. -/
theorem eachPlaceHasItsWriters : Obligations.EachPlaceHasItsWriters := by
  intro i s t hwf hsrst h
  cases i with
  | unpack565 imm16 => rcases execUnpack565_cases h with ⟨-, rfl⟩ | ⟨-, rfl⟩ <;> simp
  | decblk => rcases execDecblk_cases h with ⟨-, rfl⟩ | ⟨-, rfl⟩ <;> simp
  | decmip => rcases execDecmip_cases h with ⟨-, rfl⟩ | ⟨-, e, rfl⟩ | ⟨-, -, -, rfl⟩ <;> simp
  | psnr a b => rcases execPsnr_cases h with ⟨-, rfl⟩ | ⟨-, e, rfl⟩ | ⟨-, -, -, rfl⟩ <;> simp
  | analyze => rcases execAnalyze_cases h with ⟨-, rfl⟩ | ⟨-, e, rfl⟩ | ⟨-, -, -, rfl⟩ <;> simp
  | srst => exact absurd rfl hsrst
  | hwr space off data =>
    rcases execHwr_cases (Instr.wellFormed_hwr.1 hwf) h with ⟨-, rfl⟩ | ⟨-, e, rfl⟩ | ⟨-, p, -, -, rfl⟩ <;> simp
  | hrd space off => rcases execHrd_cases h with ⟨p, -, rfl⟩ | ⟨-, -, rfl⟩ | ⟨-, -, rfl⟩ <;> simp

end Sys2Proof.Machine

/-! # Proofs: the reset state and the invariant of a run -/

namespace Sys2Proof.Machine

/-! ## The sum of the histogram's counters (R47) -/

theorem histTotal_eq_sum (h : Vector (BitVec 32) 52) : histTotal h = ∑ k : Fin 52, h[k].toNat := by
  have hlist : h.toList.map BitVec.toNat = List.ofFn fun k : Fin 52 => h[k].toNat := by
    apply List.ext_getElem
    · rw [List.length_map, Vector.length_toList, List.length_ofFn]
    · intro k _ _
      rw [List.getElem_map, Vector.getElem_toList, List.getElem_ofFn]
      rfl
  rw [histTotal, hlist, List.sum_ofFn]

theorem histTotal_replicate_zero : histTotal (Vector.replicate 52 0) = 0 := by simp [histTotal_eq_sum]

/-- One increment adds at most one to the sum, whether or not the counter wraps. -/
theorem histTotal_bumpCounter_le (h : Vector (BitVec 32) 52) (k : Fin 52) :
    histTotal (bumpCounter h k) ≤ histTotal h + 1 := by
  have hcounter : ∀ j : Fin 52, (bumpCounter h k)[j].toNat ≤ h[j].toNat + if k = j then 1 else 0 := by
    intro j
    rw [bumpCounter_get]
    split
    · rw [BitVec.toNat_add]
      exact Nat.mod_le _ _
    · exact le_refl _
  calc histTotal (bumpCounter h k) = ∑ j : Fin 52, (bumpCounter h k)[j].toNat := histTotal_eq_sum _
    _ ≤ ∑ j : Fin 52, (h[j].toNat + if k = j then 1 else 0) := Finset.sum_le_sum fun j _ => hcounter j
    _ = histTotal h + 1 := by simp [Finset.sum_add_distrib, histTotal_eq_sum]

/-- A report of `n` rows counts at most `n` of them (R172, R173). -/
theorem histTotal_histogram_le (n : Nat) (bestSse : Nat → Nat) : histTotal (histogram n bestSse) ≤ n := by
  by_cases h2 : 2 ≤ n
  · have hrows : ∀ m, histTotal ((List.range m).foldl
        (fun h i => if 2 ≤ n then bumpCounter h (bucketS (bestSse i)) else h) (Vector.replicate 52 0)) ≤ m := by
      intro m
      induction m with
      | zero => exact histTotal_replicate_zero.le
      | succ m ih =>
        rw [List.range_succ, List.foldl_append, List.foldl_cons, List.foldl_nil, if_pos h2]
        exact (histTotal_bumpCounter_le _ _).trans (Nat.succ_le_succ ih)
    exact hrows n
  · rw [histogram_of_lt_two n bestSse (not_le.1 h2), histTotal_replicate_zero]
    exact Nat.zero_le n

/-! ## The words of a report row (R95, R158) -/

/-- The trackers hold SSEs of the row, or start values: nothing above a bound of the row's SSEs. -/
theorem trackRow_le {sse : Nat → Nat → Nat} {i bound : Nat} (hsse : ∀ j, sse i j ≤ bound) (n : Nat) :
    (trackRow n sse i).worst ≤ bound ∧ ∀ b, (trackRow n sse i).bestSse = some b → b ≤ bound := by
  rcases (trackRow_spec n sse i).2 with ⟨hstart, -⟩ | ⟨b, hbest, -, -, hb, ⟨j, -, -, hworst⟩, -⟩
  · simp [hstart]
  · refine ⟨hworst ▸ hsse j, fun c hc => ?_⟩
    obtain rfl : b = c := Option.some.inj (hbest.symm.trans hc)
    exact hb ▸ hsse _

theorem State.pairSse_le (s : State) (i j : Nat) : s.pairSse i j ≤ sseMax := msse_le _ _

/-- Every word of a report row has its form, for SSEs a pair of blocks can have. -/
theorem reportWordForm_reportRow {sse : Nat → Nat → Nat} {i : Nat} (hsse : ∀ j, sse i j ≤ sseMax) (n bpr w : Nat) :
    reportWordForm w ((reportRow n bpr sse i).word w) := by
  obtain ⟨hworst, hbest⟩ := trackRow_le hsse n
  have hmax : sseMax < 2 ^ 20 := by decide
  have hworst20 : (reportRow n bpr sse i).worstSse < 2 ^ 20 := hworst.trans_lt hmax
  have hbest20 : (reportRow n bpr sse i).bestSse < 2 ^ 20 := by
    simp only [reportRow]
    cases hb : (trackRow n sse i).bestSse with
    | none => decide
    | some b => exact (hbest b hb).trans_lt hmax
  unfold reportWordForm
  split
  · exact ⟨_, hworst, rfl⟩
  · rw [ReportRow.word_one]
    simp only [reportRow]
    cases hb : (trackRow n sse i).bestSse with
    | none => exact .inr rfl
    | some b => exact .inl ⟨b, hbest b hb, rfl⟩
  · exact ⟨ReportRow.word_five_zero_low _ hbest20 hworst20, ReportRow.word_five_zero_high _ hbest20 hworst20⟩
  · rfl
  · rfl
  · trivial

/-- A new report writes every word of the rows below its NRPT. -/
theorem State.read?_installReport_rpt (s : State) {hist : Vector (BitVec 32) 52} {row : Nat → ReportRow} {k : Nat}
    (hk : k < 8 * s.nblk.toNat) :
    (s.installReport hist row).rpt.read? k = some ((row (k / 8)).word (k % 8)) := by
  simp only [State.installReport]
  rw [Memory.read?_writeRange, if_neg (by omega), Memory.read?_writeRange, if_pos (by omega), Nat.sub_zero]

/-! ## The reset state -/

theorem State.readReg_reset {r : Reg} (hr : r ≠ .cap) : State.reset.readReg r = 0 := by
  cases r with
  | cap => exact absurd rfl hr
  | tex t => simp [State.readReg, State.reset]
  | _ => rfl

/-- Settles O1: nothing is written in the memories, so each word reads as the free value of the reset. -/
theorem resetStateHoldsResetValues : Obligations.ResetStateHoldsResetValues :=
  ⟨fun _ => State.readReg_reset, rfl, fun k => by simp [State.reset], fun _ => ⟨rfl, rfl, rfl⟩⟩

/-- Settles O44: every register and counter is 0 and the memories are empty. -/
theorem invariantHoldsAtReset : Obligations.InvariantHoldsAtReset where
  err := Nat.zero_le _
  nblk := Nat.zero_le _
  nrpt := Nat.zero_le _
  sse := ⟨Nat.zero_le _, Nat.zero_le _, Nat.zero_le _⟩
  psnrv := .inl rfl
  pm := ⟨Memory.wf_nil, List.forall_mem_nil _⟩
  bs := ⟨Memory.wf_nil, List.forall_mem_nil _⟩
  rpt := ⟨Memory.wf_nil, List.forall_mem_nil _⟩
  rptWords := fun k _ hk => absurd hk (Nat.not_lt_zero k)
  rptRows := fun k hk => absurd hk (Nat.not_lt_zero k)
  hist := histTotal_replicate_zero.trans_le (Nat.zero_le _)

/-! ## Each update of a state keeps the invariant -/

section

variable {s : State}

/-- A reset sets every field the invariant speaks of as the reset state does. -/
theorem State.Inv.performReset : s.performReset.Inv := { invariantHoldsAtReset with }

theorem State.Inv.takeEvent (hs : s.Inv) (rest : List HostEvent) : (s.takeEvent rest).Inv := { hs with }

theorem State.Inv.raise (hs : s.Inv) (e : ErrorCode) : (s.raise e).Inv := by
  unfold State.raise
  split
  · exact { hs with err := e.code_le }
  · exact hs

theorem State.Inv.withSimilarity (hs : s.Inv) {r g b : BitVec 20} {p : Word} (hr : r.toNat ≤ sseMax)
    (hg : g.toNat ≤ sseMax) (hb : b.toNat ≤ sseMax) (hp : IsPsnrValue p) :
    State.Inv { s with sseR := r, sseG := g, sseB := b, psnrv := p } :=
  { hs with sse := ⟨hr, hg, hb⟩, psnrv := .inr hp }

/-- What PSNR writes is in range (R35, R158). -/
theorem State.Inv.withPsnr (hs : s.Inv) (a b : DecodedBlock) : (s.withPsnr a b).Inv := by
  have hreg (ch : ColorChannel) : (BitVec.ofNat 20 (channelSse ch a b)).toNat ≤ sseMax := by
    rw [BitVec.toNat_ofNat]
    exact (Nat.mod_le _ _).trans (channelSse_le ch a b)
  rw [State.withPsnr]
  exact hs.withSimilarity (hreg .r) (hreg .g) (hreg .b) ⟨msse a b, msse_le a b, rfl⟩

/-- The capacity check of DECMIP keeps NBLK and BS within their sizes (R140). -/
theorem State.Inv.decodeMip (hs : s.Inv) (hcap : gridBlocks s.width s.height ≤ Config.nbMax) : s.decodeMip.Inv :=
  { hs with
    nblk := by
      rw [State.decodeMip_nblk, BitVec.toNat_ofNat]
      exact (Nat.mod_le _ _).trans hcap
    bs := ⟨Memory.wf_writeRange hs.bs.1 _ _ _, Memory.below_writeRange hs.bs.2 (by omega) _⟩ }

/-- A new report lies within RPT because NBLK is within NB_MAX (R33, R37). -/
theorem State.Inv.installReport (hs : s.Inv) {hist : Vector (BitVec 32) 52} {row : Nat → ReportRow}
    (hhist : histTotal hist ≤ Config.nbMax) (hrow : ∀ i w, reportWordForm w ((row i).word w)) :
    (s.installReport hist row).Inv :=
  have hnblk := hs.nblk
  have hnrpt := hs.nrpt
  { hs with
    nrpt := hs.nblk
    rpt := ⟨Memory.wf_writeRange (Memory.wf_writeRange hs.rpt.1 _ _ _) _ _ _,
      Memory.below_writeRange (Memory.below_writeRange hs.rpt.2 (by omega) _) (by omega) _⟩
    rptWords := fun k v hk hread => by
      rw [s.read?_installReport_rpt hk] at hread
      cases hread
      exact hrow _ _
    rptRows := fun k hk => by
      rw [s.read?_installReport_rpt hk]
      rfl
    hist := hhist }

theorem State.Inv.buildReport (hs : s.Inv) : s.buildReport.Inv := by
  rw [State.buildReport]
  refine hs.installReport ((histTotal_histogram_le _ _).trans hs.nblk) fun i w => ?_
  exact reportWordForm_reportRow (fun j => s.pairSse_le i j) s.nblk.toNat s.bpr.toNat w

/-- A host write of NBLK that raises no error is within NB_MAX (R66). -/
theorem Reg.writeError_nblk_eq_none {data : Word} (h : Reg.writeError data .nblk = none) :
    (data.extractLsb' 0 32).toNat ≤ Config.nbMax := by
  by_contra hgt
  simp only [Reg.writeError, if_neg hgt] at h
  split at h <;> cases h

/-- A register the host writes: NBLK alone is in the invariant, and its check keeps it there (R33, R66). -/
theorem State.Inv.writeReg (hs : s.Inv) {r : Reg} {data : Word} (hok : r.writeError data = none) :
    (s.writeReg data r).Inv := by
  cases r with
  | nblk => exact { hs with nblk := Reg.writeError_nblk_eq_none hok }
  | _ => exact { hs with }

/-- A store at a mapped place lies within its memory (R61, R65). -/
theorem State.Inv.store (hs : s.Inv) {space : BitVec 4} {off : BitVec 32} {p : Place} {data : Word}
    (hp : Place.locate space off = some p) (hok : p.writeError data = none) : (s.store data p).Inv := by
  cases p with
  | reg r => exact hs.writeReg hok
  | pm i =>
    obtain ⟨-, -, hi⟩ := Place.locate_spec hp
    exact { hs with pm := ⟨Memory.wf_write hs.pm.1 _ _, Memory.below_write hs.pm.2 hi _⟩ }
  | bs k =>
    obtain ⟨-, -, hk⟩ := Place.locate_spec hp
    exact { hs with bs := ⟨Memory.wf_write hs.bs.1 _ _, Memory.below_write hs.bs.2 hk _⟩ }
  | rpt k => exact hs
  | hist k => exact hs

/-! ## Every instruction and every step keeps the invariant -/

theorem exec_keeps_inv {i : Instr} {t : State} (hwf : i.wellFormed = true) (hs : s.Inv) (h : exec i s = .next t) :
    t.Inv := by
  cases i with
  | unpack565 imm16 =>
    rcases execUnpack565_cases h with ⟨-, rfl⟩ | ⟨-, rfl⟩
    · exact hs
    · exact { hs with }
  | decblk =>
    rcases execDecblk_cases h with ⟨-, rfl⟩ | ⟨-, rfl⟩
    · exact hs
    · exact { hs with }
  | decmip =>
    rcases execDecmip_cases h with ⟨-, rfl⟩ | ⟨-, e, rfl⟩ | ⟨-, -, hcap, rfl⟩
    · exact hs
    · exact hs.raise e
    · exact hs.decodeMip hcap
  | psnr a b =>
    rcases execPsnr_cases h with ⟨-, rfl⟩ | ⟨-, e, rfl⟩ | ⟨-, -, -, rfl⟩
    · exact hs
    · exact hs.raise e
    · exact hs.withPsnr _ _
  | analyze =>
    rcases execAnalyze_cases h with ⟨-, rfl⟩ | ⟨-, e, rfl⟩ | ⟨-, -, -, rfl⟩
    · exact hs
    · exact hs.raise e
    · exact hs.buildReport
  | srst =>
    cases h
    exact State.Inv.performReset
  | hwr space off data =>
    rcases execHwr_cases (Instr.wellFormed_hwr.1 hwf) h with ⟨-, rfl⟩ | ⟨-, e, rfl⟩ | ⟨-, p, hp, hok, rfl⟩
    · exact hs
    · exact hs.raise e
    · exact hs.store hp hok
  | hrd space off =>
    rcases execHrd_cases h with ⟨p, -, rfl⟩ | ⟨-, -, rfl⟩ | ⟨-, -, rfl⟩
    · exact { hs with }
    · exact { hs with }
    · exact { hs with err := le_refl 6 }

end

/-- Settles O45: a step waits, resets, or serves an access; taking the event off the script keeps the invariant, and
so does the instruction the access decodes to, which is well-formed. -/
theorem invariantIsKeptByEveryStep : Obligations.InvariantIsKeptByEveryStep := by
  intro s t hs h
  rcases step_cases h with ⟨-, rfl⟩ | ⟨rest, -, rfl⟩ | ⟨r, rest, -, hexec⟩
  · exact hs
  · exact State.Inv.performReset
  · exact exec_keeps_inv (decode_wellFormed r) (hs.takeEvent rest) hexec

end Sys2Proof.Machine

/-! # Proofs: the host port and the raw block bytes -/

namespace Sys2Proof

/-! ## Decoding a host access that is no command (R110) -/

theorem decode_encode_hwr {space : BitVec 4} {off : BitVec 32} {data : Word} (h : isCmdAddress space off = false) :
    decode (encode (.hwr space off data)) = .hwr space off data := by
  simp [encode, decode, h]

theorem decode_encode_hrd (space : BitVec 4) (off : BitVec 32) : decode (encode (.hrd space off)) = .hrd space off := by
  simp [encode, decode]

end Sys2Proof

namespace Sys2Proof.Machine

/-! ## Where each address of the map lies (R61, R67) -/

theorem Reg.ofOffset_add_sixteen (t : Nat) :
    Reg.ofOffset (t + 16) = if h : t < 16 then some (.tex ⟨t, h⟩) else none := rfl

theorem Reg.ofOffset_tex (t : Fin 16) : Reg.ofOffset (16 + t) = some (.tex t) := by
  rw [Nat.add_comm, Reg.ofOffset_add_sixteen, dif_pos t.isLt]

theorem Reg.ofOffset_eq_none_of_gt {n : Nat} (h : 31 < n) : Reg.ofOffset n = none := by
  obtain ⟨t, rfl⟩ := Nat.exists_eq_add_of_le' (show 16 ≤ n by omega)
  rw [Reg.ofOffset_add_sixteen, dif_neg (by omega)]

section

variable {space : BitVec 4} {off : BitVec 32}

theorem Place.locate_reg {r : Reg} (h : Reg.ofOffset off.toNat = some r) : Place.locate 0 off = some (.reg r) :=
  congrArg (Option.map Place.reg) h

theorem Place.locate_pm (h : off.toNat < Config.nbMax) : Place.locate 1 off = some (.pm off.toNat) := if_pos h

theorem Place.locate_bs (h : off.toNat < 16 * Config.nbMax) : Place.locate 2 off = some (.bs off.toNat) := if_pos h

theorem Place.locate_rpt (h : off.toNat < 8 * Config.nbMax) : Place.locate 3 off = some (.rpt off.toNat) := if_pos h

theorem Place.locate_hist (h : off.toNat < 52) : Place.locate 4 off = some (.hist ⟨off.toNat, h⟩) := dif_pos h

theorem Place.locate_of_space_ge (h : 5 ≤ space.toNat) : Place.locate space off = none := by
  unfold Place.locate
  split
  case h_6 => rfl
  all_goals omega

/-- R67: each kind of unmapped address names no place. -/
theorem Place.locate_of_unmapped (h : Unmapped space off) : Place.locate space off = none := by
  rcases h with hspace | ⟨rfl, rfl | hreg⟩ | ⟨rfl, hpm⟩ | ⟨rfl, hbs⟩ | ⟨rfl, hrpt⟩ | ⟨rfl, hhist⟩
  · exact Place.locate_of_space_ge hspace
  · rfl
  · exact congrArg (Option.map Place.reg) (Reg.ofOffset_eq_none_of_gt hreg)
  · exact if_neg hpm.not_gt
  · exact if_neg hbs.not_gt
  · exact if_neg hrpt.not_gt
  · exact dif_neg hhist.not_gt

end

/-! ## The checks of a write (R66, R68) -/

/-- The bits from `k` up are zero exactly when the number is below `2 ^ k`. -/
theorem extractLsb'_eq_zero_iff_toNat_lt {w k n : Nat} (v : BitVec w) (hw : w ≤ k + n) :
    v.extractLsb' k n = 0 ↔ v.toNat < 2 ^ k := by
  have hquot : v.toNat / 2 ^ k < 2 ^ n := by
    rw [Nat.div_lt_iff_lt_mul (Nat.two_pow_pos k), Nat.mul_comm, ← Nat.pow_add]
    exact v.isLt.trans_le (Nat.pow_le_pow_right Nat.two_pos hw)
  rw [← BitVec.toNat_inj, BitVec.extractLsb'_toNat, Nat.shiftRight_eq_div_pow, Nat.mod_eq_of_lt hquot]
  exact Nat.div_eq_zero_iff_lt (Nat.two_pow_pos k)

/-- R66: WIDTH, HEIGHT and BPR take the data that fits 32 bits. -/
theorem Reg.writeError_of_32bit {r : Reg} (hr : r = .width ∨ r = .height ∨ r = .bpr) (data : Word) :
    r.writeError data = if data.toNat < 2 ^ 32 then none else some .badOperand := by
  rw [← if_congr (extractLsb'_eq_zero_iff_toNat_lt data (by decide : 64 ≤ 32 + 32)) rfl rfl]
  rcases hr with rfl | rfl | rfl <;> rfl

/-- R66: NBLK takes the data up to NB_MAX; its two errors exclude each other at 32 bits. -/
theorem Reg.writeError_nblk (data : Word) :
    Reg.writeError data .nblk =
      if data.toNat < 2 ^ 32 then if data.toNat ≤ Config.nbMax then none else some .capacityExceeded
      else some .badOperand := by
  rw [Reg.writeError, if_congr (extractLsb'_eq_zero_iff_toNat_lt data (by decide : 64 ≤ 32 + 32)) rfl rfl]
  refine if_ctx_congr Iff.rfl (fun hfits => ?_) fun _ => rfl
  rw [BitVec.extractLsb'_toNat, Nat.shiftRight_zero, Nat.mod_eq_of_lt hfits]

/-- R66: a BS word takes the data that fits 24 bits. -/
theorem Place.writeError_bs (k : Nat) (data : Word) :
    (Place.bs k).writeError data = if data.toNat < 2 ^ 24 then none else some .badOperand :=
  if_congr (extractLsb'_eq_zero_iff_toNat_lt data (by decide : 64 ≤ 24 + 40)) rfl rfl

/-- R68: the registers the host may not write refuse any data. -/
theorem Reg.writeError_readOnly {n : Nat}
    (h : n = 1 ∨ n = 2 ∨ n = 4 ∨ (10 ≤ n ∧ n ≤ 14) ∨ (16 ≤ n ∧ n ≤ 31)) :
    ∃ r, Reg.ofOffset n = some r ∧ ∀ data, r.writeError data = some .busError := by
  rcases h with rfl | rfl | rfl | ⟨hlow, hhigh⟩ | ⟨hlow, hhigh⟩
  · exact ⟨.err, rfl, fun _ => rfl⟩
  · exact ⟨.cap, rfl, fun _ => rfl⟩
  · exact ⟨.color, rfl, fun _ => rfl⟩
  · interval_cases n <;> exact ⟨_, rfl, fun _ => rfl⟩
  · obtain ⟨t, rfl⟩ := Nat.exists_eq_add_of_le hlow
    exact ⟨.tex ⟨t, by omega⟩, Reg.ofOffset_tex ⟨t, by omega⟩, fun _ => rfl⟩

/-- R68: a read-only address names a place that refuses any data. -/
theorem Place.writeError_of_readOnly {space : BitVec 4} {off : BitVec 32} (h : ReadOnly space off) (data : Word) :
    ∃ p, Place.locate space off = some p ∧ p.writeError data = some .busError := by
  rcases h with ⟨rfl, hreg⟩ | ⟨rfl, hrpt⟩ | ⟨rfl, hhist⟩
  · obtain ⟨r, hr, herror⟩ := Reg.writeError_readOnly (n := off.toNat) (by simpa [← BitVec.toNat_inj] using hreg)
    exact ⟨_, Place.locate_reg hr, herror data⟩
  · exact ⟨_, Place.locate_rpt hrpt, rfl⟩
  · exact ⟨_, Place.locate_hist hhist, rfl⟩

/-! ## What the host port answers, check by check (R63) -/

section

variable {s : State} {space : BitVec 4} {off : BitVec 32} {data : Word} {p : Place}

theorem exec_hwr_of_unmapped (hr : s.err = 0) (hp : Place.locate space off = none) :
    exec (.hwr space off data) s = .next { s with err := 6 } := by
  simp only [exec, execHwr, s.not_halted_iff.2 hr, hp, State.raise_of_running hr]
  rfl

/-- R63: a running machine answers a write to a mapped address by its place alone. -/
theorem exec_hwr_of_mapped (hr : s.err = 0) (hp : Place.locate space off = some p) :
    exec (.hwr space off data) s = writePlace p data s := by
  simp only [exec, execHwr, s.not_halted_iff.2 hr, hp]
  rfl

theorem exec_hwr_of_writeError (hr : s.err = 0) (hp : Place.locate space off = some p) {e : ErrorCode}
    (he : p.writeError data = some e) : exec (.hwr space off data) s = .next { s with err := e.code } := by
  simp only [exec_hwr_of_mapped hr hp, writePlace, he, State.raise_of_running hr]

theorem exec_hwr_of_fits (hr : s.err = 0) (hp : Place.locate space off = some p) (hcmd : p ≠ .reg .cmd)
    (hok : p.writeError data = none) : exec (.hwr space off data) s = .next (s.store data p) := by
  simp only [exec_hwr_of_mapped hr hp, writePlace, hok, if_neg hcmd]

/-- R24: a write to CMD is never refused for its address or its width. -/
theorem exec_hwr_cmd (hr : s.err = 0) : exec (.hwr 0 0 data) s = issueCommand data s := by
  rw [exec_hwr_of_mapped hr (p := .reg .cmd) rfl]
  rfl

theorem issueCommand_of_ok {c : Command} (hc : decodeCommand data = .ok c) :
    issueCommand data s = exec c.toInstr s := by
  rw [issueCommand, hc]
  cases c <;> rfl

/-- R97: a word of no row of the opcode map raises IllegalCommand. -/
theorem issueCommand_of_illegal (hr : s.err = 0) (hc : isCommandWord data = false) :
    issueCommand data s = .next { s with err := 1 } := by
  rw [issueCommand, (decodeCommand_error_iff data).2 hc, State.raise_of_running hr]
  rfl

theorem exec_hrd_of_mapped (hp : Place.locate space off = some p) :
    exec (.hrd space off) s = .next { s with response := some (s.load p) } := by
  rw [exec, execHrd, hp]

theorem exec_hrd_reg (r : Reg) (h : Reg.ofOffset off.toNat = some r) :
    exec (.hrd 0 off) s = .next { s with response := some (s.readReg r) } := exec_hrd_of_mapped (Place.locate_reg h)

theorem exec_hrd_of_unmapped_running (hr : s.err = 0) (hp : Place.locate space off = none) :
    exec (.hrd space off) s = .next { s with err := 6, response := some 0 } := by
  simp only [exec, execHrd, hp, s.not_halted_iff.2 hr, State.raise_of_running hr]
  rfl

theorem exec_hrd_of_unmapped_halted (hh : s.err ≠ 0) (hp : Place.locate space off = none) :
    exec (.hrd space off) s = .next { s with response := some 0 } := by
  simp only [exec, execHrd, hp, s.halted_iff.2 hh, if_true]

end

/-! ## The host's reads -/

/-- Settles O30: the place at each address, and the word it loads. -/
theorem hostReadServesEveryMappedWord : Obligations.HostReadServesEveryMappedWord := by
  intro s off
  refine ⟨exec_hrd_reg .cmd rfl, exec_hrd_reg .err rfl, exec_hrd_reg .cap rfl, exec_hrd_reg .blk rfl,
    exec_hrd_reg .color rfl, exec_hrd_reg .width rfl, exec_hrd_reg .height rfl, exec_hrd_reg .buflen rfl,
    exec_hrd_reg .nblk rfl, exec_hrd_reg .bpr rfl, exec_hrd_reg .sseR rfl, exec_hrd_reg .sseG rfl,
    exec_hrd_reg .sseB rfl, exec_hrd_reg .psnrv rfl, exec_hrd_reg .nrpt rfl, fun t ht => ?tex, fun hpm => ?pm,
    fun hbs => ?bs, fun hrpt => ?rpt, fun k hk => ?hist⟩
  case tex => exact exec_hrd_reg (.tex t) (ht ▸ Reg.ofOffset_tex t)
  case pm => exact exec_hrd_of_mapped (Place.locate_pm hpm)
  case bs => exact exec_hrd_of_mapped (Place.locate_bs hbs)
  case rpt => exact exec_hrd_of_mapped (Place.locate_rpt hrpt)
  case hist =>
    have hlocate : Place.locate 4 off = some (.hist k) := by simp only [Place.locate_hist (hk ▸ k.isLt), hk]
    exact exec_hrd_of_mapped hlocate

/-- Settles O31: an unmapped address names no place. -/
theorem hostReadOfUnmappedAddressReturnsZero : Obligations.HostReadOfUnmappedAddressReturnsZero :=
  fun _ _ _ hunmapped =>
    ⟨fun hr => exec_hrd_of_unmapped_running hr (Place.locate_of_unmapped hunmapped),
      fun hh => exec_hrd_of_unmapped_halted hh (Place.locate_of_unmapped hunmapped)⟩

/-! ## The host's writes -/

/-- Settles O29: an unmapped address names no place, a read-only one a place that refuses any data. -/
theorem hostWriteOutsideTheMapRaisesBusError : Obligations.HostWriteOutsideTheMapRaisesBusError := by
  rintro s space off data hr (hunmapped | hreadOnly)
  · exact exec_hwr_of_unmapped hr (Place.locate_of_unmapped hunmapped)
  · obtain ⟨p, hp, he⟩ := Place.writeError_of_readOnly hreadOnly data
    exact exec_hwr_of_writeError hr hp he

/-- Settles O28: the error of each place for data that does not fit, and of CMD for an illegal word. -/
theorem hostWriteRefusesDataThatDoesNotFit : Obligations.HostWriteRefusesDataThatDoesNotFit := by
  intro s off data hr
  refine ⟨fun hwide hoff => ?register, fun hwide hoff => ?bs, fun hfits hcap => ?nblk, fun hillegal => ?cmd⟩
  case register =>
    have h32 (r : Reg) (h : r = .width ∨ r = .height ∨ r = .bpr) : r.writeError data = some .badOperand :=
      (Reg.writeError_of_32bit h data).trans (if_neg hwide.not_gt)
    rcases hoff with rfl | rfl | rfl | rfl
    · exact exec_hwr_of_writeError hr (p := .reg .width) rfl (h32 .width (by simp))
    · exact exec_hwr_of_writeError hr (p := .reg .height) rfl (h32 .height (by simp))
    · exact exec_hwr_of_writeError hr (p := .reg .nblk) rfl ((Reg.writeError_nblk data).trans (if_neg hwide.not_gt))
    · exact exec_hwr_of_writeError hr (p := .reg .bpr) rfl (h32 .bpr (by simp))
  case bs =>
    exact exec_hwr_of_writeError hr (Place.locate_bs hoff) ((Place.writeError_bs _ data).trans (if_neg hwide.not_gt))
  case nblk =>
    have he : Reg.writeError data .nblk = some .capacityExceeded := by
      rw [Reg.writeError_nblk, if_pos hfits, if_neg hcap.not_ge]
    exact exec_hwr_of_writeError hr (p := .reg .nblk) rfl he
  case cmd => exact (exec_hwr_cmd hr).trans (issueCommand_of_illegal hr hillegal)

/-- R65: a write to PM answers a state whose PM holds the data there, and nothing else changes. -/
theorem exec_hwr_pm {s : State} {off : BitVec 32} (hr : s.err = 0) (hoff : off.toNat < Config.nbMax) (data : Word) :
    exec (.hwr 1 off data) s = .next { s with pm := s.pm.write off.toNat data } :=
  exec_hwr_of_fits hr (Place.locate_pm hoff) (by simp) rfl

/-- Settles O27: each place takes the data that fits it, and CMD runs the command. -/
theorem hostWriteChangesOnlyItsPlace : Obligations.HostWriteChangesOnlyItsPlace := by
  intro s off data hr
  have hlow {n : Nat} (hn : n ≤ 64) : data.setWidth n = data.extractLsb' 0 n := BitVec.setWidth_eq_extractLsb' hn
  refine ⟨fun c hc => ?cmd, ?blk, ?buflen, fun hfits => ?register, fun hcap => ?nblk, fun hoff => ?pm,
    fun hoff hfits => ?bs⟩
  case cmd => exact (exec_hwr_cmd hr).trans (issueCommand_of_ok hc)
  case blk => exact exec_hwr_of_fits hr (p := .reg .blk) rfl (by simp) rfl
  case buflen => exact exec_hwr_of_fits hr (p := .reg .buflen) rfl (by simp) rfl
  case register =>
    have h32 (r : Reg) (h : r = .width ∨ r = .height ∨ r = .bpr) : r.writeError data = none :=
      (Reg.writeError_of_32bit h data).trans (if_pos hfits)
    rw [hlow (by decide)]
    exact ⟨exec_hwr_of_fits hr (p := .reg .width) rfl (by simp) (h32 .width (by simp)),
      exec_hwr_of_fits hr (p := .reg .height) rfl (by simp) (h32 .height (by simp)),
      exec_hwr_of_fits hr (p := .reg .bpr) rfl (by simp) (h32 .bpr (by simp))⟩
  case nblk =>
    have hfits : data.toNat < 2 ^ 32 := (hcap.trans Config.nbMax_le).trans_lt (by decide)
    have hok : Reg.writeError data .nblk = none := by rw [Reg.writeError_nblk, if_pos hfits, if_pos hcap]
    rw [hlow (by decide)]
    exact exec_hwr_of_fits hr (p := .reg .nblk) rfl (by simp) hok
  case pm => exact ⟨_, exec_hwr_pm hr hoff data, rfl, s.pmWord_write off.toNat data⟩
  case bs =>
    rw [hlow (by decide)]
    have hok : (Place.bs off.toNat).writeError data = none := (Place.writeError_bs _ data).trans (if_pos hfits)
    exact ⟨_, exec_hwr_of_fits hr (Place.locate_bs hoff) (by simp) hok, rfl, s.bsWord_write off.toNat _⟩

/-! ## A write and a read of PM through two steps (R80) -/

section

variable {s : State} {rest : List HostEvent} {off : BitVec 32}

theorem step_hwr_pm {data : Word} (hr : s.err = 0) (hoff : off.toNat < Config.nbMax)
    (hpending : s.pending = .access (encode (.hwr 1 off data)) :: rest) :
    step s = .next { s.takeEvent rest with pm := s.pm.write off.toNat data } := by
  have hdecode : decode (encode (.hwr 1 off data)) = .hwr 1 off data := decode_encode_hwr rfl
  rw [step_of_access hpending, hdecode]
  exact exec_hwr_pm (s := s.takeEvent rest) hr hoff data

theorem step_hrd_pm (hoff : off.toNat < Config.nbMax)
    (hpending : s.pending = .access (encode (.hrd 1 off)) :: rest) :
    step s = .next { s.takeEvent rest with response := some (s.pmWord off.toNat) } := by
  rw [step_of_access hpending, decode_encode_hrd]
  exact exec_hrd_of_mapped (Place.locate_pm hoff)

end

/-- Settles O32: the read is served in the state the write leaves, whose PM differs at the written word alone. -/
theorem writtenPmWordIsReadBack : Obligations.WrittenPmWordIsReadBack := by
  intro s rest off off' data hr hoff hoff' hpending
  refine ⟨_, _, step_hwr_pm hr hoff hpending, step_hrd_pm hoff' rfl, rfl, congrArg some ?_⟩
  calc State.pmWord { s.takeEvent _ with pm := s.pm.write off.toNat data } off'.toNat
      = if off'.toNat = off.toNat then data else s.pmWord off'.toNat := (s.takeEvent _).pmWord_write _ _ _
    _ = if off' = off then data else s.pmWord off'.toNat := if_congr BitVec.toNat_inj rfl rfl

/-! ## The bytes of the raw buffer (R70, R71) -/

/-- Digit `k` of a number written in base `b`. -/
theorem ofDigits_div_pow_mod {b k : Nat} {digits : List Nat} (hlt : ∀ d ∈ digits, d < b) (hk : k < digits.length) :
    Nat.ofDigits b digits / b ^ k % b = digits[k] := by
  have hdigit : digits[k] < b := hlt _ (List.getElem_mem hk)
  rw [Nat.ofDigits_div_pow_eq_ofDigits_drop k (by omega) digits hlt, List.drop_eq_getElem_cons hk, Nat.ofDigits_cons,
    Nat.add_mul_mod_self_left, Nat.mod_eq_of_lt hdigit]

theorem toNat_lt_of_mem_bytes (bytes : Vector (BitVec 8) 8) : ∀ d ∈ bytes.toList.map BitVec.toNat, d < 2 ^ 8 := by
  simp only [List.mem_map, forall_exists_index, and_imp, forall_apply_eq_imp_iff₂]
  exact fun byte _ => byte.isLt

/-- The PM word of eight bytes is the number whose base-256 digits they are. -/
theorem wordOfBytes_toNat (bytes : Vector (BitVec 8) 8) :
    (wordOfBytes bytes).toNat = Nat.ofDigits (2 ^ 8) (bytes.toList.map BitVec.toNat) := by
  have hfold : bytes.foldr (fun byte high => byte.toNat + 2 ^ 8 * high) 0 =
      Nat.ofDigits (2 ^ 8) (bytes.toList.map BitVec.toNat) := by
    rw [Nat.ofDigits_eq_foldr, List.foldr_map, ← Vector.foldr_toList]
    rfl
  have hlt : Nat.ofDigits (2 ^ 8) (bytes.toList.map BitVec.toNat) < 2 ^ 64 := by
    simpa using Nat.ofDigits_lt_base_pow_length (by decide : 1 < 2 ^ 8) (toNat_lt_of_mem_bytes bytes)
  rw [wordOfBytes, BitVec.toNat_ofNat, hfold, Nat.mod_eq_of_lt hlt]

/-- R70: byte `k` of the word is the `k`-th of the eight bytes. -/
theorem extractLsb'_wordOfBytes (bytes : Vector (BitVec 8) 8) (k : Fin 8) :
    (wordOfBytes bytes).extractLsb' (8 * k) 8 = bytes[k] := by
  have hk : (k : Nat) < (bytes.toList.map BitVec.toNat).length := by simp
  apply BitVec.eq_of_toNat_eq
  rw [BitVec.extractLsb'_toNat, Nat.shiftRight_eq_div_pow, Nat.pow_mul, wordOfBytes_toNat,
    ofDigits_div_pow_mod (toNat_lt_of_mem_bytes bytes) hk]
  simp

/-- R70: byte `k` of the raw buffer's group `i` is byte `k` of the PM word. -/
theorem State.rawByte_eq (s : State) (i : Nat) {k : Nat} (hk : k < 8) :
    s.rawByte (8 * i + k) = (s.pmWord i).extractLsb' (8 * k) 8 := by
  have hword : (8 * i + k) / 8 = i := by omega
  have hbyte : (8 * i + k) % 8 = k := by omega
  rw [State.rawByte, hword, hbyte]

/-- R70: the value of byte `k` of the raw buffer's group `i`. -/
theorem State.rawByte_toNat (s : State) (i : Nat) {k : Nat} (hk : k < 8) :
    (s.rawByte (8 * i + k)).toNat = (s.pmWord i).toNat / 2 ^ (8 * k) % 2 ^ 8 := by
  rw [s.rawByte_eq i hk, BitVec.extractLsb'_toNat, Nat.shiftRight_eq_div_pow]

/-- Settles O33: the write of the word is at PM's word `i` alone, and its bytes are the eight given. -/
theorem rawBytesLandInPmWord : Obligations.RawBytesLandInPmWord := by
  intro s i bytes hr hi
  refine ⟨_, exec_hwr_pm hr hi _, fun k => ?same, fun a ha => ?other⟩
  case same => rw [State.rawByte_eq _ _ k.isLt, State.pmWord_write, if_pos rfl, extractLsb'_wordOfBytes]
  case other => rw [State.rawByte, State.pmWord_write, if_neg ha, State.rawByte]

/-- Settles O34: a field and the sum of its bytes are the same digits of the PM word. -/
theorem packedBlockFieldsAreLittleEndian : Obligations.PackedBlockFieldsAreLittleEndian := by
  intro s i
  have hfirst : (s.rawByte (8 * i)).toNat = (s.pmWord i).toNat % 2 ^ 8 := by
    simpa using s.rawByte_toNat i (k := 0) (by decide)
  simp only [blockOfWord, BitVec.extractLsb'_toNat, Nat.shiftRight_eq_div_pow, hfirst, s.rawByte_toNat i,
    Nat.reduceLT, Nat.reduceMul, Nat.reducePow, Nat.div_one]
  refine ⟨?endpointA, ?endpointB, ?indices⟩
  case endpointA => omega
  case endpointB => omega
  case indices => omega

end Sys2Proof.Machine

/-! # Proofs: the encodings -/

namespace Sys2Proof

/-! ## The fields of a command word (R96) -/

/-- `op = word[7:0]` (R96). -/
def commandOp (w : Word) : BitVec 8 := w.extractLsb' 0 8

/-- `Z = word[63:56]` (R96). -/
def commandZ (w : Word) : BitVec 8 := w.extractLsb' 56 8

@[simp] theorem commandOp_commandWord (op : BitVec 8) (a b : BitVec 24) : commandOp (commandWord op a b) = op := by
  apply BitVec.eq_of_toNat_eq
  rw [commandOp, BitVec.extractLsb'_toNat, commandWord_toNat, Nat.shiftRight_zero]
  omega

@[simp] theorem commandZ_commandWord (op : BitVec 8) (a b : BitVec 24) : commandZ (commandWord op a b) = 0 := by
  apply BitVec.eq_of_toNat_eq
  rw [commandZ, BitVec.extractLsb'_toNat, commandWord_toNat, Nat.shiftRight_eq_div_pow]
  simp only [BitVec.ofNat_eq_ofNat, BitVec.toNat_ofNat]
  omega

/-- R96: a word is its four fields. -/
theorem word_eq_iff_fields {v w : Word} :
    v = w ↔ commandOp v = commandOp w ∧ commandA v = commandA w ∧ commandB v = commandB w ∧ commandZ v = commandZ w := by
  refine ⟨fun h => by simp [h], fun ⟨hop, ha, hb, hz⟩ => BitVec.eq_of_toNat_eq ?_⟩
  simp only [commandOp, commandA, commandB, commandZ, ← BitVec.toNat_inj, BitVec.extractLsb'_toNat,
    Nat.shiftRight_eq_div_pow] at hop ha hb hz
  omega

/-- R96, R112: the word built from `op`, `A` and `B` is the one with these fields and `Z = 0`. -/
theorem eq_commandWord_iff {w : Word} {op : BitVec 8} {a b : BitVec 24} :
    w = commandWord op a b ↔ commandOp w = op ∧ commandA w = a ∧ commandB w = b ∧ commandZ w = 0 := by
  rw [word_eq_iff_fields, commandOp_commandWord, commandA_commandWord, commandB_commandWord, commandZ_commandWord]

/-- R98: the immediate is the low part of `A`. -/
theorem commandImm16_eq_setWidth (w : Word) : commandImm16 w = (commandA w).setWidth 16 := by
  rw [commandImm16, commandA, BitVec.setWidth_extractLsb'_of_le (by decide)]

/-- R98: `A` is the immediate, widened, exactly when its bits above are zero. -/
theorem commandA_eq_imm16_iff {w : Word} :
    commandA w = (commandImm16 w).setWidth 24 ↔ (commandA w).extractLsb' 16 8 = 0 := by
  simp only [commandA, commandImm16, ← BitVec.toNat_inj, BitVec.toNat_setWidth, BitVec.extractLsb'_toNat,
    Nat.shiftRight_eq_div_pow, BitVec.ofNat_eq_ofNat, BitVec.toNat_ofNat]
  omega

/-- R98: a widened immediate has zero bits above. -/
theorem extractLsb'_setWidth_high (imm16 : BitVec 16) : (imm16.setWidth 24).extractLsb' 16 8 = 0 := by
  rw [BitVec.extractLsb'_setWidth_of_le (by decide)]
  exact (Machine.extractLsb'_eq_zero_iff_toNat_lt imm16 (by decide)).2 imm16.isLt

/-! ## What each row of the opcode map accepts (R100) -/

/-- The mask test, field by field. -/
theorem OpcodeRow.accepts_iff_fields {row : OpcodeRow} {w : Word} :
    row.accepts w = true ↔
      commandOp w &&& commandOp row.mask = commandOp row.pattern ∧
      commandA w &&& commandA row.mask = commandA row.pattern ∧
      commandB w &&& commandB row.mask = commandB row.pattern ∧
      commandZ w &&& commandZ row.mask = commandZ row.pattern := by
  rw [OpcodeRow.accepts, beq_iff_eq, word_eq_iff_fields]
  simp only [commandOp, commandA, commandB, commandZ, BitVec.extractLsb'_and]

/-- The mask of `A` in format V keeps bits 23:16. -/
theorem and_mask_eq_zero_iff (a : BitVec 24) : a &&& 0xFF0000 = 0 ↔ a.extractLsb' 16 8 = 0 := by
  have hsplit : a &&& 0xFF0000 = a.extractLsb' 16 8 ++ 0#16 :=
    calc a &&& 0xFF0000 = (a.extractLsb' 16 8 ++ a.extractLsb' 0 16) &&& (BitVec.allOnes 8 ++ 0#16) :=
          congrArg (· &&& 0xFF0000) (BitVec.extractLsb'_append_extractLsb' (w := 8) (len := 16)).symm
      _ = a.extractLsb' 16 8 ++ 0#16 := by rw [BitVec.and_append, BitVec.and_allOnes, BitVec.and_zero]
  rw [hsplit]
  refine ⟨fun h => ?_, fun h => by rw [h]; rfl⟩
  rw [← BitVec.extractLsb'_append_eq_left (a := a.extractLsb' 16 8) (b := 0#16), h]
  rfl

/-- Format V: `op = 1`, and `A[23:16]`, `B` and `Z` zero. -/
theorem unpack565Row_accepts_iff {w : Word} :
    unpack565Row.accepts w = true ↔ w = encodeCommand (.unpack565 (commandImm16 w)) := by
  rw [encodeCommand, eq_commandWord_iff, commandA_eq_imm16_iff, ← and_mask_eq_zero_iff, OpcodeRow.accepts_iff_fields]
  change commandOp w &&& BitVec.allOnes 8 = 1 ∧ commandA w &&& 0xFF0000 = 0 ∧
    commandB w &&& BitVec.allOnes 24 = 0 ∧ commandZ w &&& BitVec.allOnes 8 = 0 ↔ _
  simp only [BitVec.and_allOnes]

/-- Format P: `op = 4` and `Z = 0`. -/
theorem psnrRow_accepts_iff {w : Word} :
    psnrRow.accepts w = true ↔ w = encodeCommand (.psnr (commandA w) (commandB w)) := by
  rw [encodeCommand, eq_commandWord_iff, OpcodeRow.accepts_iff_fields]
  change commandOp w &&& BitVec.allOnes 8 = 4 ∧ commandA w &&& 0#24 = 0 ∧ commandB w &&& 0#24 = 0 ∧
    commandZ w &&& BitVec.allOnes 8 = 0 ↔ _
  simp only [BitVec.and_allOnes, BitVec.and_zero, BitVec.ofNat_eq_ofNat, true_and]

/-- Format N: the whole word is compared. -/
theorem OpcodeRow.accepts_iff_eq {row : OpcodeRow} (hmask : row.mask = BitVec.allOnes 64) {w : Word} :
    row.accepts w = true ↔ w = row.pattern := by
  rw [OpcodeRow.accepts, beq_iff_eq, hmask, BitVec.and_allOnes]

theorem decblkRow_accepts_iff {w : Word} : decblkRow.accepts w = true ↔ w = encodeCommand .decblk :=
  OpcodeRow.accepts_iff_eq rfl

theorem decmipRow_accepts_iff {w : Word} : decmipRow.accepts w = true ↔ w = encodeCommand .decmip :=
  OpcodeRow.accepts_iff_eq rfl

theorem analyzeRow_accepts_iff {w : Word} : analyzeRow.accepts w = true ↔ w = encodeCommand .analyze :=
  OpcodeRow.accepts_iff_eq rfl

theorem srstRow_accepts_iff {w : Word} : srstRow.accepts w = true ↔ w = encodeCommand .srst :=
  OpcodeRow.accepts_iff_eq rfl

/-- R100: every row compares the whole of `op`. -/
theorem OpcodeRow.commandOp_of_accepts {row : OpcodeRow} (hrow : row ∈ opcodeMap) {w : Word}
    (h : row.accepts w = true) : commandOp w = commandOp row.pattern := by
  have hmask : ∀ row ∈ opcodeMap, commandOp row.mask = BitVec.allOnes 8 := by decide
  have hop := (OpcodeRow.accepts_iff_fields.1 h).1
  rwa [hmask row hrow, BitVec.and_allOnes] at hop

/-! ## Decoding a command word (R97, R100) -/

/-- A word decodes only to the command whose word it is. -/
theorem eq_encodeCommand_of_decodeCommand {w : Word} {c : Command} (h : decodeCommand w = .ok c) :
    w = encodeCommand c := by
  unfold decodeCommand at h
  split_ifs at h with hunpack hdecblk hdecmip hpsnr hanalyze hsrst <;> cases h
  · exact unpack565Row_accepts_iff.1 hunpack
  · exact decblkRow_accepts_iff.1 hdecblk
  · exact decmipRow_accepts_iff.1 hdecmip
  · exact psnrRow_accepts_iff.1 hpsnr
  · exact analyzeRow_accepts_iff.1 hanalyze
  · exact srstRow_accepts_iff.1 hsrst

@[simp] theorem commandImm16_encodeCommand_unpack565 (imm16 : BitVec 16) :
    commandImm16 (encodeCommand (.unpack565 imm16)) = imm16 := by
  rw [commandImm16_eq_setWidth, encodeCommand, commandA_commandWord, BitVec.setWidth_setWidth_of_le _ (by decide),
    BitVec.setWidth_eq]

/-- The word of a command decodes to the command: its own row accepts it, and the rows before have another `op`. -/
@[simp] theorem decodeCommand_encodeCommand (c : Command) : decodeCommand (encodeCommand c) = .ok c := by
  simp only [decodeCommand, unpack565Row_accepts_iff, decblkRow_accepts_iff, decmipRow_accepts_iff,
    psnrRow_accepts_iff, analyzeRow_accepts_iff, srstRow_accepts_iff]
  cases c with
  | unpack565 imm16 => simp
  | psnr | decblk | decmip | analyze | srst => simp [encodeCommand, eq_commandWord_iff]

theorem decodeCommand_eq_ok_iff {w : Word} {c : Command} : decodeCommand w = .ok c ↔ w = encodeCommand c :=
  ⟨eq_encodeCommand_of_decodeCommand, fun h => by rw [h, decodeCommand_encodeCommand]⟩

/-- R97: a word is illegal exactly when it is the word of no command. -/
theorem isCommandWord_eq_false_iff {w : Word} : isCommandWord w = false ↔ ∀ c, w ≠ encodeCommand c := by
  refine ⟨fun hillegal c hc => ?_, fun hnone => Bool.eq_false_iff.2 fun hlegal => ?_⟩
  · rw [isCommandWord_of_decodeCommand_ok (decodeCommand_eq_ok_iff.2 hc)] at hillegal
    cases hillegal
  · obtain ⟨c, hc⟩ := Machine.decodeCommand_ok_of_isCommandWord hlegal
    exact hnone c (decodeCommand_eq_ok_iff.1 hc)

/-! ## Decoding and encoding a host access (R110, R112) -/

theorem encode_toInstr (c : Command) : encode c.toInstr = commandRecord c := by cases c <;> rfl

theorem decode_commandRecord (c : Command) : decode (commandRecord c) = c.toInstr :=
  decode_commandWrite (decodeCommand_encodeCommand c)

/-- A write of an illegal word to CMD is an `hwr`. -/
theorem decode_encode_illegalWrite {data : Word} (h : isCommandWord data = false) :
    decode (encode (.hwr 0 0 data)) = .hwr 0 0 data := by
  simp [encode, decode, isCmdAddress, (Machine.decodeCommand_error_iff data).2 h]

/-- Settles O46: a command's word decodes to the command, and a well-formed `hwr` is no command. -/
theorem decodeOfEncodeIsIdentity : Obligations.DecodeOfEncodeIsIdentity := by
  intro i hwf
  cases i with
  | unpack565 imm16 => exact decode_commandRecord (.unpack565 imm16)
  | decblk => exact decode_commandRecord .decblk
  | decmip => exact decode_commandRecord .decmip
  | psnr a b => exact decode_commandRecord (.psnr a b)
  | analyze => exact decode_commandRecord .analyze
  | srst => exact decode_commandRecord .srst
  | hwr space off data =>
    cases hcmd : isCmdAddress space off with
    | false => exact decode_encode_hwr hcmd
    | true =>
      obtain ⟨rfl, rfl⟩ : space = 0 ∧ off = 0 := by simpa [isCmdAddress] using hcmd
      exact decode_encode_illegalWrite (Instr.wellFormed_hwr.1 hwf)
  | hrd space off => exact decode_encode_hrd space off

/-- R110: `kind` is the record's highest bit. -/
theorem recordKind_toNat (r : Record) : (recordKind r).toNat = r.toNat / 2 ^ 100 := by
  rw [recordKind, BitVec.getLsbD, Nat.toNat_testBit]
  omega

/-- R110: a record is its four fields. -/
theorem accessRecord_fields (r : Record) :
    accessRecord (recordKind r) (recordSpace r) (recordOff r) (recordData r) = r := by
  apply BitVec.eq_of_toNat_eq
  rw [accessRecord_toNat, recordKind_toNat]
  simp only [recordSpace, recordOff, recordData, BitVec.extractLsb'_toNat, Nat.shiftRight_eq_div_pow]
  omega

/-- A write is encoded back to its record, whether it is a command or not. -/
theorem encode_decode_write {r : Record} (h : recordKind r = true) : encode (decode r) = r := by
  have hrecord : accessRecord true (recordSpace r) (recordOff r) (recordData r) = r := h ▸ accessRecord_fields r
  rw [decode, if_pos h]
  split
  case isTrue hcmd =>
    obtain ⟨hspace, hoff⟩ : recordSpace r = 0 ∧ recordOff r = 0 := by simpa [isCmdAddress] using hcmd
    split
    case h_1 c hc =>
      calc encode c.toInstr = accessRecord true 0 0 (encodeCommand c) := encode_toInstr c
        _ = accessRecord true (recordSpace r) (recordOff r) (recordData r) := by
          rw [hspace, hoff, decodeCommand_eq_ok_iff.1 hc]
        _ = r := hrecord
    case h_2 => exact hrecord
  case isFalse => exact hrecord

/-- A read is encoded back to its record without the data bits. -/
theorem encode_decode_read {r : Record} (h : recordKind r = false) : encode (decode r) = (r >>> 64) <<< 64 := by
  have hkind : r.toNat / 2 ^ 100 = 0 := by rw [← recordKind_toNat, h, Bool.toNat_false]
  apply BitVec.eq_of_toNat_eq
  rw [decode, if_neg (by simp [h]), encode, accessRecord_toNat]
  simp only [recordSpace, recordOff, BitVec.extractLsb'_toNat, BitVec.toNat_shiftLeft, BitVec.toNat_ushiftRight,
    Nat.shiftRight_eq_div_pow, Nat.shiftLeft_eq, BitVec.ofNat_eq_ofNat, BitVec.toNat_ofNat, Bool.toNat_false]
  omega

/-- Settles O47: a record is its fields, of which a read's instruction has all but the data. -/
theorem encodeOfDecodeIsIdentity : Obligations.EncodeOfDecodeIsIdentity :=
  fun r => ⟨decode_wellFormed r, encode_decode_write, encode_decode_read⟩

/-- Settles O48: two rows have different `op` values, and each compares the whole of `op`. -/
theorem opcodeRowsAreDisjoint : Obligations.OpcodeRowsAreDisjoint := by
  have hops : opcodeMap.Pairwise fun x y => commandOp x.pattern ≠ commandOp y.pattern := by decide
  refine ⟨rfl, hops.imp_of_mem fun {x y} hx hy hne w ⟨hacceptsX, hacceptsY⟩ => hne ?_⟩
  calc commandOp x.pattern = commandOp w := (OpcodeRow.commandOp_of_accepts hx (beq_iff_eq.2 hacceptsX)).symm
    _ = commandOp y.pattern := OpcodeRow.commandOp_of_accepts hy (beq_iff_eq.2 hacceptsY)

/-- Settles O49: a word with these fields is the word of the command, which decodes to it. -/
theorem commandWordFieldsAreReadAsTheyStand : Obligations.CommandWordFieldsAreReadAsTheyStand := by
  intro w op a b hz
  have hdecode {c : Command} {code : BitVec 8} {x y : BitVec 24} (hc : encodeCommand c = commandWord code x y)
      (hop : op = code) (ha : a = x) (hb : b = y) : decodeCommand w = .ok c :=
    decodeCommand_eq_ok_iff.2 ((eq_commandWord_iff.2 ⟨hop, ha, hb, hz⟩).trans hc.symm)
  refine ⟨fun hop hhigh hb => ?unpack565, fun hop => ?psnr, fun ha hb => ?formatN⟩
  case unpack565 => exact hdecode rfl hop (commandA_eq_imm16_iff.2 hhigh) hb
  case psnr => exact hdecode rfl hop rfl rfl
  case formatN =>
    exact ⟨fun hop => hdecode rfl hop ha hb, fun hop => hdecode rfl hop ha hb, fun hop => hdecode rfl hop ha hb,
      fun hop => hdecode rfl hop ha hb⟩

/-- Settles O51, record by record. -/
theorem writtenOutWordsDecode : Obligations.WrittenOutWordsDecode := by
  refine ⟨?_, ?_, ?_, ?_, ?_, ?_, ?_, ?_⟩ <;> decide

end Sys2Proof

namespace Sys2Proof.Machine

/-- Settles O37: the word of a command has none of the illegal fields. -/
theorem illegalWordsRaiseIllegalCommand : Obligations.IllegalWordsRaiseIllegalCommand := by
  intro w s hr op a b z hfields
  have hillegal : isCommandWord w = false := by
    refine isCommandWord_eq_false_iff.2 fun c hc => ?_
    have fieldsOf {code : BitVec 8} {x y : BitVec 24} (h : encodeCommand c = commandWord code x y) :
        op = code ∧ a = x ∧ b = y ∧ z = 0 := eq_commandWord_iff.1 (hc.trans h)
    cases c with
    | unpack565 imm16 =>
      obtain ⟨hop, ha, hb, hz⟩ := fieldsOf rfl
      have hhigh : a.extractLsb' 16 8 = 0 := by rw [ha, extractLsb'_setWidth_high]
      simp [hop, hhigh, hb, hz] at hfields
    | psnr x y =>
      obtain ⟨hop, -, -, hz⟩ := fieldsOf rfl
      simp [hop, hz] at hfields
    | decblk | decmip | analyze | srst =>
      obtain ⟨hop, ha, hb, hz⟩ := fieldsOf rfl
      simp [hop, ha, hb, hz] at hfields
  exact (exec_hwr_cmd hr).trans (issueCommand_of_illegal hr hillegal)

/-! ## The data formats (R91, R94) -/

theorem packedWord_toNat (blk : PackedBlock) : (packedWord blk).toNat =
    blk.endpointA.toNat + 2 ^ 16 * blk.endpointB.toNat + 2 ^ 32 * blk.indices.toNat := by
  simp only [packedWord, BitVec.toNat_ofNat]
  omega

/-- R91: each field of the PackedBlock word is its digits of the sum. -/
theorem extractLsb'_packedWord_toNat (blk : PackedBlock) (start len : Nat) :
    ((packedWord blk).extractLsb' start len).toNat =
      (blk.endpointA.toNat + 2 ^ 16 * blk.endpointB.toNat + 2 ^ 32 * blk.indices.toNat) / 2 ^ start % 2 ^ len := by
  rw [BitVec.extractLsb'_toNat, packedWord_toNat, Nat.shiftRight_eq_div_pow]

theorem blockOfWord_packedWord (blk : PackedBlock) : blockOfWord (packedWord blk) = blk := by
  have hA : (packedWord blk).extractLsb' 0 16 = blk.endpointA := by
    apply BitVec.eq_of_toNat_eq
    rw [extractLsb'_packedWord_toNat]
    omega
  have hB : (packedWord blk).extractLsb' 16 16 = blk.endpointB := by
    apply BitVec.eq_of_toNat_eq
    rw [extractLsb'_packedWord_toNat]
    omega
  have hindices : (packedWord blk).extractLsb' 32 32 = blk.indices := by
    apply BitVec.eq_of_toNat_eq
    rw [extractLsb'_packedWord_toNat]
    omega
  rw [blockOfWord, hA, hB, hindices]

theorem packedWord_blockOfWord (w : Word) : packedWord (blockOfWord w) = w := by
  apply BitVec.eq_of_toNat_eq
  simp only [packedWord_toNat, blockOfWord, BitVec.extractLsb'_toNat, Nat.shiftRight_eq_div_pow]
  omega

/-- Settles O35: the sum of the fields, and the two round trips. -/
theorem packedBlockWordLayout : Obligations.PackedBlockWordLayout :=
  ⟨fun blk => ⟨packedWord_toNat blk, blockOfWord_packedWord blk⟩, packedWord_blockOfWord⟩

theorem packColor_colorOfWord (w : BitVec 24) : packColor (colorOfWord w) = w := by
  apply BitVec.eq_of_toNat_eq
  simp only [packColor_toNat, colorOfWord, BitVec.extractLsb'_toNat, Nat.shiftRight_eq_div_pow]
  omega

/-- Settles O36: the sum of the channels, and the two round trips. -/
theorem colorWordLayout : Obligations.ColorWordLayout :=
  ⟨fun c => ⟨packColor_toNat c, colorOfWord_packColor c⟩, packColor_colorOfWord⟩

end Sys2Proof.Machine

/-! # Proofs: the 565-colour unpacker -/

namespace Sys2Proof.Machine

/-! ## The channels of a Color word and of an unpacked value (R94, R121 to R123) -/

theorem extractLsb'_packColor_r (c : Color) : (packColor c).extractLsb' 0 8 = c.r :=
  congrArg Color.r (colorOfWord_packColor c)

theorem extractLsb'_packColor_g (c : Color) : (packColor c).extractLsb' 8 8 = c.g :=
  congrArg Color.g (colorOfWord_packColor c)

theorem extractLsb'_packColor_b (c : Color) : (packColor c).extractLsb' 16 8 = c.b :=
  congrArg Color.b (colorOfWord_packColor c)

/-- R121: a widened channel is its field shifted left with zero fill, and clamped. -/
theorem shiftExpand_toNat_eq_shiftLeft (field shift : Nat) :
    (shiftExpand field shift).toNat = min 255 (field <<< shift) := by
  rw [shiftExpand_toNat, Nat.shiftLeft_eq]

/-- R122: a field that keeps within eight bits when shifted is not clamped. -/
theorem shiftExpand_toNat_of_fits {n shift : Nat} (field : BitVec n) (hfits : n + shift ≤ 8) :
    (shiftExpand field.toNat shift).toNat = field.toNat <<< shift := by
  have hlt : field.toNat <<< shift < 2 ^ 8 :=
    calc field.toNat <<< shift = field.toNat * 2 ^ shift := Nat.shiftLeft_eq _ _
      _ < 2 ^ n * 2 ^ shift := Nat.mul_lt_mul_of_pos_right field.isLt (Nat.two_pow_pos shift)
      _ = 2 ^ (n + shift) := (Nat.pow_add 2 n shift).symm
      _ ≤ 2 ^ 8 := Nat.pow_le_pow_right Nat.two_pos hfits
  rw [shiftExpand_toNat_eq_shiftLeft]
  omega

/-- R123: such a field is read back by the opposite shift. -/
theorem shiftExpand_toNat_shiftRight {n shift : Nat} (field : BitVec n) (hfits : n + shift ≤ 8) :
    (shiftExpand field.toNat shift).toNat >>> shift = field.toNat := by
  rw [shiftExpand_toNat_of_fits field hfits, Nat.shiftLeft_shiftRight]

/-- R93: an RGB565 value is its three fields. -/
theorem eq_of_565_fields {v w : BitVec 16}
    (hr : (v.extractLsb' 11 5).toNat = (w.extractLsb' 11 5).toNat)
    (hg : (v.extractLsb' 5 6).toNat = (w.extractLsb' 5 6).toNat)
    (hb : (v.extractLsb' 0 5).toNat = (w.extractLsb' 0 5).toNat) : v = w := by
  apply BitVec.eq_of_toNat_eq
  simp only [BitVec.extractLsb'_toNat, Nat.shiftRight_eq_div_pow] at hr hg hb
  omega

/-- R123: the fields of a value, read back from its Color. -/
theorem unpack565_fields (v : BitVec 16) :
    (unpack565 v).r.toNat >>> 3 = (v.extractLsb' 11 5).toNat ∧
      (unpack565 v).g.toNat >>> 2 = (v.extractLsb' 5 6).toNat ∧
      (unpack565 v).b.toNat >>> 3 = (v.extractLsb' 0 5).toNat :=
  ⟨shiftExpand_toNat_shiftRight _ (by decide), shiftExpand_toNat_shiftRight _ (by decide),
    shiftExpand_toNat_shiftRight _ (by decide)⟩

/-- Settles O5: no field is clamped, so each is read back, and a value is its fields. -/
theorem unpack565IsInjective : Obligations.Unpack565IsInjective := by
  refine ⟨unpack565_fields, fun v w heq => ?_⟩
  obtain ⟨hvr, hvg, hvb⟩ := unpack565_fields v
  obtain ⟨hwr, hwg, hwb⟩ := unpack565_fields w
  rw [heq] at hvr hvg hvb
  exact eq_of_565_fields (hvr.symm.trans hwr) (hvg.symm.trans hwg) (hvb.symm.trans hwb)

/-! ## The command (R120) -/

/-- R120: on a running machine UNPACK565 replaces COLOR. -/
theorem exec_unpack565_of_running {s : State} (hr : s.err = 0) (v : BitVec 16) :
    exec (.unpack565 v) s = .next { s with color := packColor (unpack565 v) } :=
  congrArg Host.Outcome.next (whenRunning_of_running hr _)

/-- Settles O4: the word written is the packed Color, whose channels are the widened fields. -/
theorem unpack565WritesShiftedFields : Obligations.Unpack565WritesShiftedFields := by
  refine fun v s hr => ⟨_, exec_unpack565_of_running hr v, ?red, ?green, ?blue⟩
  case red => rw [extractLsb'_packColor_r]; exact shiftExpand_toNat_eq_shiftLeft _ 3
  case green => rw [extractLsb'_packColor_g]; exact shiftExpand_toNat_eq_shiftLeft _ 2
  case blue => rw [extractLsb'_packColor_b]; exact shiftExpand_toNat_eq_shiftLeft _ 3

end Sys2Proof.Machine

/-! # Proofs: the block decoder and the mip levels -/

namespace Sys2Proof.Machine

/-! ## The palette interpolator (R131, R132, R135) -/

theorem channel_mixColor (ch : ColorChannel) (p q : Color) :
    Color.channel ch (mixColor p q) = mixThird (Color.channel ch p) (Color.channel ch q) := by
  cases ch <;> rfl

/-- R132: a channel of a mixed Color. -/
theorem channel_mixColor_toNat (ch : ColorChannel) (p q : Color) :
    (Color.channel ch (mixColor p q)).toNat =
      (2 * (Color.channel ch p).toNat + (Color.channel ch q).toNat) / 3 := by
  rw [channel_mixColor, mixThird_toNat]

/-- R136: a truncated third of the way lies between its ends. -/
theorem mixThird_between (p q : Channel) :
    min p.toNat q.toNat ≤ (mixThird p q).toNat ∧ (mixThird p q).toNat ≤ max p.toNat q.toNat := by
  rw [mixThird_toNat]
  omega

theorem channel_mixColor_between (ch : ColorChannel) (p q : Color) :
    min (Color.channel ch p).toNat (Color.channel ch q).toNat ≤ (Color.channel ch (mixColor p q)).toNat ∧
      (Color.channel ch (mixColor p q)).toNat ≤ max (Color.channel ch p).toNat (Color.channel ch q).toNat := by
  rw [channel_mixColor]
  exact mixThird_between _ _

@[simp] theorem mixThird_self (p : Channel) : mixThird p p = p := by
  apply BitVec.eq_of_toNat_eq
  rw [mixThird_toNat]
  omega

@[simp] theorem mixColor_self (p : Color) : mixColor p p = p := by simp [mixColor]

/-- R136: no entry overshoots the endpoints, in any channel. -/
theorem palette_between (blk : PackedBlock) (ch : ColorChannel) (k : Fin 4) :
    min (Color.channel ch (palette blk)[0]).toNat (Color.channel ch (palette blk)[1]).toNat ≤
        (Color.channel ch (palette blk)[k]).toNat ∧
      (Color.channel ch (palette blk)[k]).toNat ≤
        max (Color.channel ch (palette blk)[0]).toNat (Color.channel ch (palette blk)[1]).toNat := by
  match k with
  | 0 => exact ⟨min_le_left _ _, le_max_left _ _⟩
  | 1 => exact ⟨min_le_right _ _, le_max_right _ _⟩
  | 2 => exact channel_mixColor_between ch _ _
  | 3 =>
    rw [min_comm, max_comm]
    exact channel_mixColor_between ch _ _

/-- R136: equal endpoints make four equal entries. -/
theorem palette_eq_zero_of_equal_endpoints {blk : PackedBlock} (h : blk.endpointA = blk.endpointB) (k : Fin 4) :
    (palette blk)[k] = (palette blk)[0] := by
  obtain ⟨endpoint, _, indices⟩ := blk
  obtain rfl : endpoint = _ := h
  match k with
  | 0 | 1 => rfl
  | 2 | 3 => exact mixColor_self _

/-- R135: every texel of a decoded block is an entry of its palette. -/
theorem decodeBlock_mem_palette (blk : PackedBlock) (i : Fin 16) : (decodeBlock blk)[i] ∈ palette blk := by
  rw [Fin.getElem_fin, decodeBlock_get, paletteEntry]
  exact Vector.getElem_mem _

/-- Settles O7: a mixed channel is a truncated third, which lies between its ends and is its end when they agree; the
swap is read off the palette's definition. -/
theorem paletteStaysBetweenEndpoints : Obligations.PaletteStaysBetweenEndpoints :=
  fun blk => ⟨palette_between blk, palette_eq_zero_of_equal_endpoints, rfl, decodeBlock_mem_palette blk⟩

/-! ## DECBLK (R134, R138) -/

/-- R92, R134: a texel's code is two bits of the block's word. -/
theorem texelCode_blockOfWord (w : Word) (t : Fin 16) :
    texelCode (blockOfWord w).indices t = w.extractLsb' (32 + 2 * t) 2 := by
  ext k hk
  have hwithin : 2 * t + k < 32 := by omega
  simp [texelCode, blockOfWord, hwithin, Nat.add_assoc]

theorem bitVec2_cases : ∀ code : BitVec 2, code = 0 ∨ code = 1 ∨ code = 2 ∨ code = 3 := by decide

/-- R138: on a running machine DECBLK replaces the sixteen TEX registers. -/
theorem exec_decblk_of_running {s : State} (hr : s.err = 0) :
    exec .decblk s =
      .next { s with tex := Vector.ofFn fun t : Fin 16 => packColor (decodeBlock (blockOfWord s.blk))[t] } :=
  congrArg Host.Outcome.next (whenRunning_of_running hr _)

/-- Settles O6: the Color in a TEX register is the palette entry of the texel's code, code by code. -/
theorem decblkWritesSixteenTexels : Obligations.DecblkWritesSixteenTexels := by
  refine fun s hr => ⟨_, exec_decblk_of_running hr, fun t ch => ?_⟩
  rw [Fin.getElem_fin, Vector.getElem_ofFn, colorOfWord_packColor, Fin.getElem_fin, decodeBlock_get,
    texelCode_blockOfWord]
  rcases bitVec2_cases (s.blk.extractLsb' (32 + 2 * t) 2) with hcode | hcode | hcode | hcode
  all_goals rw [hcode]
  · rfl
  · rfl
  · exact channel_mixColor_toNat ch _ _
  · exact (channel_mixColor_toNat ch _ _).trans (congrArg (· / 3) (Nat.add_comm _ _))

/-! ## The grid of a mip level (R139) -/

theorem gridCount_eq_max_one (d : BitVec 32) : gridCount d = max 1 (d.toNat / 4) := by
  unfold gridCount
  omega

theorem gridCount_le (d : BitVec 32) : gridCount d ≤ 2 ^ 30 - 1 := Nat.le_sub_one_of_lt (gridCount_lt d)

theorem gridBlocks_pos (w h : BitVec 32) : 1 ≤ gridBlocks w h := Nat.mul_pos (gridCount_pos w) (gridCount_pos h)

theorem gridBlocks_le (w h : BitVec 32) : gridBlocks w h ≤ (2 ^ 30 - 1) ^ 2 := by
  rw [Nat.pow_two]
  exact Nat.mul_le_mul (gridCount_le w) (gridCount_le h)

/-- R139: the length of a level in bytes fits below the sign bit of BUFLEN. -/
theorem eight_mul_gridBlocks_lt (w h : BitVec 32) : 8 * gridBlocks w h < 2 ^ 63 :=
  (Nat.mul_le_mul_left 8 (gridBlocks_le w h)).trans_lt (by decide)

/-- Settles O8: the bounds of the product are those of the two counts. -/
theorem mipGridCountsWholeBlocks : Obligations.MipGridCountsWholeBlocks := fun w h =>
  ⟨rfl, gridCount_eq_max_one w, gridCount_pos w, gridCount_le w, rfl, gridBlocks_pos w h, gridBlocks_le w h,
    eight_mul_gridBlocks_lt w h⟩

/-! ## DECMIP (R140) -/

section

variable {s : State}

/-- R140: on a running machine DECMIP checks the length, then the capacity, and then decodes. -/
theorem exec_decmip_of_running (hr : s.err = 0) :
    exec .decmip s = .next
      (if s.buflen.toNat ≠ 8 * gridBlocks s.width s.height then s.raise .invalidBlockData
      else if Config.nbMax < gridBlocks s.width s.height then s.raise .capacityExceeded
      else s.decodeMip) :=
  congrArg Host.Outcome.next (whenRunning_of_running hr _)

theorem exec_decmip_of_wrong_length (hr : s.err = 0) (hlen : s.buflen.toNat ≠ 8 * gridBlocks s.width s.height) :
    exec .decmip s = .next { s with err := 2 } := by
  rw [exec_decmip_of_running hr, if_pos hlen, State.raise_of_running hr, ErrorCode.code]

theorem exec_decmip_of_over_capacity (hr : s.err = 0) (hlen : s.buflen.toNat = 8 * gridBlocks s.width s.height)
    (hcap : Config.nbMax < gridBlocks s.width s.height) : exec .decmip s = .next { s with err := 5 } := by
  rw [exec_decmip_of_running hr, if_neg (not_not.2 hlen), if_pos hcap, State.raise_of_running hr, ErrorCode.code]

theorem exec_decmip_of_fits (hr : s.err = 0) (hlen : s.buflen.toNat = 8 * gridBlocks s.width s.height)
    (hcap : gridBlocks s.width s.height ≤ Config.nbMax) : exec .decmip s = .next s.decodeMip := by
  rw [exec_decmip_of_running hr, if_neg (not_not.2 hlen), if_neg hcap.not_gt]

/-- A block count within the capacity fits NBLK. -/
theorem State.decodeMip_nblk_toNat (hcap : gridBlocks s.width s.height ≤ Config.nbMax) :
    s.decodeMip.nblk.toNat = gridBlocks s.width s.height := by
  have hfits : gridBlocks s.width s.height < 2 ^ 32 := (hcap.trans Config.nbMax_le).trans_lt (by decide)
  rw [State.decodeMip_nblk, BitVec.toNat_ofNat, Nat.mod_eq_of_lt hfits]

/-- The blocks per row of any level fit BPR. -/
theorem State.decodeMip_bpr_toNat (s : State) : s.decodeMip.bpr.toNat = gridCount s.width := by
  have hfits : gridCount s.width < 2 ^ 32 := (gridCount_lt s.width).trans (by decide)
  rw [State.decodeMip_bpr, BitVec.toNat_ofNat, Nat.mod_eq_of_lt hfits]

/-- R140: texel `j` of a block of the grid lands in BS. -/
theorem State.bsWord_decodeMip_texel {i : Nat} (hi : i < gridBlocks s.width s.height) (j : Fin 16) :
    s.decodeMip.bsWord (16 * i + j) = packColor (decodeBlock (blockOfWord (s.pmWord i)))[j] := by
  rw [State.bsWord_decodeMip, if_pos (by omega)]
  exact s.mipTexel_eq i j j.isLt

/-- R140: the words of BS past the grid's blocks stay. -/
theorem State.bsWord_decodeMip_of_ge {k : Nat} (hk : 16 * gridBlocks s.width s.height ≤ k) :
    s.decodeMip.bsWord k = s.bsWord k := by
  rw [State.bsWord_decodeMip, if_neg hk.not_gt]

end

/-- Settles O10: the two checks of DECMIP in their order. -/
theorem decmipChecksLengthThenCapacity : Obligations.DecmipChecksLengthThenCapacity :=
  fun _ hr => ⟨exec_decmip_of_wrong_length hr, exec_decmip_of_over_capacity hr⟩

/-- Settles O9: both checks pass, and the counts fit their registers. -/
theorem decmipDecodesWholeMipLevel : Obligations.DecmipDecodesWholeMipLevel := by
  intro s hr hlen hcap
  have hnblk : s.decodeMip.nblk.toNat = gridBlocks s.width s.height := State.decodeMip_nblk_toNat hcap
  refine ⟨s.decodeMip, exec_decmip_of_fits hr hlen hcap, rfl, hnblk, s.decodeMip_bpr_toNat, fun i j hi => ?texel,
    fun k hk => ?past⟩
  case texel => exact State.bsWord_decodeMip_texel (hnblk ▸ hi) j
  case past => exact State.bsWord_decodeMip_of_ge (hnblk ▸ hk)

end Sys2Proof.Machine

/-! # Proofs: the PSNR engine -/

namespace Sys2Proof.Machine

/-! ## The order of binary64 patterns (R11, R154) -/

theorem binary64Lt_iff {p q : Word} : binary64Lt p q = true ↔ binary64Val p < binary64Val q := decide_eq_true_iff

theorem isFinite64_iff {p : Word} : isFinite64 p = true ↔ binary64Exponent p ≠ 2047 := bne_iff_ne

theorem binary64Exponent_toNat_le {p : Word} (hfinite : isFinite64 p = true) : (binary64Exponent p).toNat ≤ 2046 := by
  have hne := isFinite64_iff.1 hfinite
  bv_omega

theorem binary64Magnitude_eq (p : Word) : binary64Magnitude p =
    if (binary64Exponent p).toNat = 0 then ((binary64Fraction p).toNat : ℚ) * 2 ^ (-1074 : ℤ)
    else ((2 ^ 52 + (binary64Fraction p).toNat : ℕ) : ℚ) * 2 ^ (((binary64Exponent p).toNat : ℤ) - 1075) := rfl

theorem binary64Magnitude_nonneg (p : Word) : 0 ≤ binary64Magnitude p := by
  rw [binary64Magnitude_eq]
  split <;> positivity

theorem binary64Val_le_magnitude (p : Word) : binary64Val p ≤ binary64Magnitude p := by
  unfold binary64Val
  split
  · exact neg_le_self (binary64Magnitude_nonneg p)
  · exact le_refl _

/-- A finite pattern's significand and its power of two are each at most the largest there is. -/
theorem binary64Magnitude_le {p : Word} (hfinite : isFinite64 p = true) :
    binary64Magnitude p ≤ ((2 ^ 53 - 1 : ℕ) : ℚ) * 2 ^ (971 : ℤ) := by
  have hfraction := (binary64Fraction p).isLt
  have hexponent := binary64Exponent_toNat_le hfinite
  have hproduct {m : ℕ} {k : ℤ} (hm : m ≤ 2 ^ 53 - 1) (hk : k ≤ 971) :
      (m : ℚ) * 2 ^ k ≤ ((2 ^ 53 - 1 : ℕ) : ℚ) * 2 ^ (971 : ℤ) :=
    mul_le_mul (Nat.cast_le.2 hm) (zpow_le_zpow_right₀ one_le_two hk) (by positivity) (by positivity)
  rw [binary64Magnitude_eq]
  split
  · exact hproduct (by omega) (by decide)
  · exact hproduct (by omega) (by omega)

theorem binary64Val_psnrInf : binary64Val psnrInf = ((2 ^ 53 - 1 : ℕ) : ℚ) * 2 ^ (971 : ℤ) := by
  have hsign : binary64Sign psnrInf = false := by decide
  have hexponent : (binary64Exponent psnrInf).toNat = 2046 := by decide
  have hfraction : (binary64Fraction psnrInf).toNat = 2 ^ 52 - 1 := by decide
  rw [binary64Val, hsign, binary64Magnitude_eq, hexponent, hfraction]
  norm_num

/-- R154: PSNR_INF is the largest finite pattern. -/
theorem binary64Val_le_psnrInf {p : Word} (hfinite : isFinite64 p = true) : binary64Val p ≤ binary64Val psnrInf :=
  calc binary64Val p ≤ binary64Magnitude p := binary64Val_le_magnitude p
    _ ≤ ((2 ^ 53 - 1 : ℕ) : ℚ) * 2 ^ (971 : ℤ) := binary64Magnitude_le hfinite
    _ = binary64Val psnrInf := binary64Val_psnrInf.symm

/-! ## The order of channel PSNRs (R153, R156) -/

/-- P4 of R156: a channel PSNR of a positive error is below 61. -/
theorem binary64Val_psnrch_lt {m : Nat} (hpos : 1 ≤ m) (hm : m ≤ sseMax) : binary64Val (psnrch m) < 61 := by
  rw [psnrch_of_pos hpos]
  exact (Config.psnrch_isPsnrUnit.kind m hpos hm).2

theorem binary64Val_psnrch_lt_psnrInf {m : Nat} (hpos : 1 ≤ m) (hm : m ≤ sseMax) :
    binary64Val (psnrch m) < binary64Val psnrInf := by
  rw [binary64Val_psnrInf]
  calc binary64Val (psnrch m) < 61 := binary64Val_psnrch_lt hpos hm
    _ ≤ ((2 ^ 53 - 1 : ℕ) : ℚ) := by norm_num
    _ ≤ ((2 ^ 53 - 1 : ℕ) : ℚ) * 2 ^ (971 : ℤ) :=
      le_mul_of_one_le_right (Nat.cast_nonneg _) (one_le_zpow₀ one_le_two (by decide))

/-- R159: over the SSEs there are, a larger error has a smaller PSNR: by P2 of R156 between positive errors, by P4
against PSNR_INF. -/
theorem strictAntiOn_val_psnrch : StrictAntiOn (fun m => binary64Val (psnrch m)) (Set.Iic sseMax) := by
  intro m _ n hn hmn
  simp only
  have hpos : 1 ≤ n := Nat.one_le_of_lt hmn
  rcases Nat.eq_zero_or_pos m with rfl | hm
  · exact binary64Val_psnrch_lt_psnrInf hpos hn
  · rw [psnrch_of_pos hm, psnrch_of_pos hpos]
    exact Config.psnrch_isPsnrUnit.decreasing m n hm hmn hn

section

variable {m n : Nat}

theorem binary64Lt_psnrch_iff (hm : m ≤ sseMax) (hn : n ≤ sseMax) :
    binary64Lt (psnrch m) (psnrch n) = true ↔ n < m :=
  binary64Lt_iff.trans (strictAntiOn_val_psnrch.lt_iff_gt hm hn)

theorem psnrch_eq_iff (hm : m ≤ sseMax) (hn : n ≤ sseMax) : psnrch m = psnrch n ↔ m = n :=
  ⟨fun h => strictAntiOn_val_psnrch.injOn hm hn (congrArg binary64Val h), congrArg psnrch⟩

theorem psnrch_eq_psnrInf_iff (hm : m ≤ sseMax) : psnrch m = psnrInf ↔ m = 0 := psnrch_eq_iff hm (Nat.zero_le _)

/-- R155, R159: the lesser of two PSNRs is that of the larger error. -/
theorem binary64Min_psnrch (hm : m ≤ sseMax) (hn : n ≤ sseMax) :
    binary64Min (psnrch m) (psnrch n) = psnrch (max m n) := by
  rw [binary64Min, if_congr (binary64Lt_psnrch_iff hn hm) rfl rfl]
  split_ifs with hlt
  · rw [max_eq_right hlt.le]
  · rw [max_eq_left (not_lt.1 hlt)]

end

/-- R158: a channel PSNR is +0.0 or a positive normal pattern. -/
theorem psnrch_zero_or_positiveNormal {m : Nat} (hm : m ≤ sseMax) :
    psnrch m = 0 ∨ isPositiveNormal (psnrch m) = true := by
  rcases Nat.eq_zero_or_pos m with rfl | hpos
  · exact .inr (by decide)
  · rw [psnrch_of_pos hpos]
    exact (Config.psnrch_isPsnrUnit.kind m hpos hm).1

theorem isPositiveNormal_iff {p : Word} : isPositiveNormal p = true ↔
    binary64Sign p = false ∧ binary64Exponent p ≠ 0 ∧ binary64Exponent p ≠ 2047 := by
  simp [isPositiveNormal, and_assoc]

/-! ## Where two blocks agree (R152, R160) -/

theorem squaredDifference_eq_natAbs_sq (x y : Channel) :
    squaredDifference x y = ((x.toNat : Int) - y.toNat).natAbs ^ 2 := by
  have hcast : (squaredDifference x y : Int) = (((x.toNat : Int) - y.toNat).natAbs ^ 2 : ℕ) := by
    rw [squaredDifference_cast, Nat.cast_pow, Int.natAbs_sq]
  exact_mod_cast hcast

theorem squaredDifference_eq_zero_iff {x y : Channel} : squaredDifference x y = 0 ↔ x = y := by
  rw [squaredDifference_eq_natAbs_sq, sq_eq_zero_iff, Int.natAbs_eq_zero, sub_eq_zero, Nat.cast_inj, BitVec.toNat_inj]

theorem channelSse_eq_zero_iff {ch : ColorChannel} {a b : DecodedBlock} :
    channelSse ch a b = 0 ↔ ∀ i : Fin 16, Color.channel ch a[i] = Color.channel ch b[i] := by
  simp [channelSse_eq_sum, squaredDifference_eq_zero_iff]

theorem Color.eq_of_channels {p q : Color} (h : ∀ ch, Color.channel ch p = Color.channel ch q) : p = q := by
  obtain ⟨red, green, blue⟩ := p
  obtain rfl : red = _ := h .r
  obtain rfl : green = _ := h .g
  obtain rfl : blue = _ := h .b
  rfl

/-- Only equal blocks have a zero error in every channel. -/
theorem msse_eq_zero_iff {a b : DecodedBlock} : msse a b = 0 ↔ a = b := by
  refine ⟨fun hzero => Vector.ext fun i hi => Color.eq_of_channels fun ch => ?_, fun h => h ▸ msse_self a⟩
  have hchannel : channelSse ch a b = 0 := Nat.eq_zero_of_le_zero (hzero ▸ channelSse_le_msse ch a b)
  exact channelSse_eq_zero_iff.1 hchannel ⟨i, hi⟩

section

variable {a b : DecodedBlock} {t : Fin 16} {ch : ColorChannel} {d : Nat}

/-- Of a single-channel difference at a single texel, its own channel's sum has the square. -/
theorem channelSse_of_differBy (h : DifferBy a b t ch d) : channelSse ch a b = d ^ 2 := by
  obtain ⟨hagree, hdiff⟩ := h
  rw [channelSse_eq_sum, Finset.sum_eq_single t, squaredDifference_eq_natAbs_sq, hdiff]
  · exact fun i _ hi => squaredDifference_eq_zero_iff.2 (hagree i ch (.inl hi))
  · exact fun ht => absurd (Finset.mem_univ t) ht

theorem channelSse_of_differBy_of_ne (h : DifferBy a b t ch d) {c : ColorChannel} (hc : c ≠ ch) :
    channelSse c a b = 0 :=
  channelSse_eq_zero_iff.2 fun i => h.1 i c (.inr hc)

theorem msse_of_differBy (h : DifferBy a b t ch d) : msse a b = d ^ 2 := by
  have hown := channelSse_of_differBy h
  have hother (c : ColorChannel) (hc : c ≠ ch) : channelSse c a b = 0 := channelSse_of_differBy_of_ne h hc
  cases ch with
  | r => simp [msse, hown, hother .g, hother .b]
  | g => simp [msse, hown, hother .r, hother .b]
  | b => simp [msse, hown, hother .r, hother .g]

end

/-! ## The PSNR of two blocks (R155, R159) -/

theorem psnr_eq_psnrch_msse (a b : DecodedBlock) : psnr a b = psnrch (msse a b) := by
  rw [psnr, binary64Min_psnrch (channelSse_le _ a b) (channelSse_le _ a b),
    binary64Min_psnrch (max_le (channelSse_le _ a b) (channelSse_le _ a b)) (channelSse_le _ a b), msse]

theorem psnr_comm (a b : DecodedBlock) : psnr a b = psnr b a := by
  rw [psnr_eq_psnrch_msse, msse_comm, psnr_eq_psnrch_msse]

@[simp] theorem psnr_self (a : DecodedBlock) : psnr a a = psnrInf := by
  rw [psnr_eq_psnrch_msse, msse_self, psnrch_zero]

theorem binary64Lt_psnr_iff {a b c d : DecodedBlock} :
    binary64Lt (psnr a b) (psnr c d) = true ↔ msse c d < msse a b := by
  rw [psnr_eq_psnrch_msse, psnr_eq_psnrch_msse, binary64Lt_psnrch_iff (msse_le a b) (msse_le c d)]

theorem psnr_eq_iff {a b c d : DecodedBlock} : psnr a b = psnr c d ↔ msse a b = msse c d := by
  rw [psnr_eq_psnrch_msse, psnr_eq_psnrch_msse, psnrch_eq_iff (msse_le a b) (msse_le c d)]

theorem psnr_eq_psnrInf_iff {a b : DecodedBlock} : psnr a b = psnrInf ↔ msse a b = 0 := by
  rw [psnr_eq_psnrch_msse, psnrch_eq_psnrInf_iff (msse_le a b)]

/-- Settles O15: the PSNR of two blocks is that of their largest channel SSE, on which the order is reversed. -/
theorem psnrOrderIsReverseSseOrder : Obligations.PsnrOrderIsReverseSseOrder := fun a b _ _ =>
  ⟨psnr_eq_psnrch_msse a b, psnr_eq_psnrInf_iff, msse_eq_zero_iff, binary64Lt_psnr_iff, psnr_eq_iff⟩

/-- Settles O16: for a difference at one texel and channel the largest channel SSE is its square. -/
theorem psnrSymmetryIdentityMonotonicity : Obligations.PsnrSymmetryIdentityMonotonicity := by
  refine ⟨psnr_comm, psnr_self, fun a b c e t u ch ch' d d' hd hd' hlt => binary64Lt_psnr_iff.2 ?_⟩
  calc msse a b = d ^ 2 := msse_of_differBy hd
    _ < d' ^ 2 := Nat.pow_lt_pow_left hlt two_ne_zero
    _ = msse c e := (msse_of_differBy hd').symm

/-- Settles O17: the largest significand with the largest power of two, far above the 61 of P4. -/
theorem psnrInfIsLargestFinite : Obligations.PsnrInfIsLargestFinite := by
  refine ⟨?value, by decide, fun p hfinite => binary64Val_le_psnrInf hfinite, fun m hpos hm =>
    ⟨binary64Val_psnrch_lt hpos hm, binary64Lt_iff.2 (binary64Val_psnrch_lt_psnrInf hpos hm)⟩⟩
  case value =>
    have hpower : (2 : ℚ) ^ (1023 : ℤ) = 2 ^ (52 : ℤ) * 2 ^ (971 : ℤ) := by
      rw [← zpow_add₀ two_ne_zero]
      rfl
    rw [binary64Val_psnrInf, hpower, ← mul_assoc]
    norm_num

/-- Settles O18: a PSNR is +0.0 or positive and normal, so its sign tells it from PSNR_NEG. -/
theorem heldPatternsAreZeroOrNormal : Obligations.HeldPatternsAreZeroOrNormal := by
  have hneg : binary64Sign psnrNeg = true := by decide
  have hpositive {p : Word} (hsign : binary64Sign p = false) : binary64Sign p = true ↔ p = psnrNeg :=
    iff_of_false (by simp [hsign]) fun h => by simp [h, hneg] at hsign
  have hzero : binary64Sign 0 = false := by decide
  rintro p (rfl | ⟨m, hm, rfl⟩ | rfl)
  · exact ⟨.inl rfl, hpositive hzero⟩
  · rcases psnrch_zero_or_positiveNormal hm with hp | hp
    · exact ⟨.inl hp, hpositive (hp ▸ hzero)⟩
    · obtain ⟨hsign, hexponent⟩ := isPositiveNormal_iff.1 hp
      exact ⟨.inr hexponent, hpositive hsign⟩
  · exact ⟨.inr (by decide), iff_of_true hneg rfl⟩

/-- Settles O14: a sum of squares vanishes only term by term. -/
theorem channelSseIsZeroExactlyOnAgreement : Obligations.ChannelSseIsZeroExactlyOnAgreement :=
  fun ch a b => ⟨channelSse_le ch a b, channelSse_eq_zero_iff⟩

/-! ## The command (R150) -/

theorem State.withPsnr_comm (s : State) (a b : DecodedBlock) : s.withPsnr a b = s.withPsnr b a := by
  simp only [State.withPsnr, channelSse_comm _ a b, msse_comm a b]

/-- A channel sum keeps its value in its 20-bit register (R35). -/
theorem channelSse_toNat_ofNat (ch : ColorChannel) (a b : DecodedBlock) :
    (BitVec.ofNat 20 (channelSse ch a b)).toNat = channelSse ch a b := by
  rw [BitVec.toNat_ofNat]
  exact Nat.mod_eq_of_lt ((channelSse_le ch a b).trans_lt (by decide))

/-- R42: texel `i` of a block of the collection. -/
theorem State.blockAt_getElem (s : State) (k : Nat) (i : Fin 16) :
    (s.blockAt k)[i] = colorOfWord (s.bsWord (16 * k + i)) := by
  rw [State.blockAt, Fin.getElem_fin, Vector.getElem_ofFn]

/-- R151: the channel sum of two blocks of the collection, over their words of BS. -/
theorem State.channelSse_blockAt (s : State) (ch : ColorChannel) (m n : Nat) :
    (channelSse ch (s.blockAt m) (s.blockAt n) : Int) =
      ∑ i : Fin 16, (((Color.channel ch (colorOfWord (s.bsWord (16 * m + i)))).toNat : Int) -
        (Color.channel ch (colorOfWord (s.bsWord (16 * n + i)))).toNat) ^ 2 := by
  simp only [channelSse_eq_sum, Nat.cast_sum, squaredDifference_cast, State.blockAt_getElem]

section

variable {a b : BitVec 24} {s : State}

theorem exec_psnr_of_running (hr : s.err = 0) :
    exec (.psnr a b) s = .next
      (if s.nblk.toNat ≤ a.toNat ∨ s.nblk.toNat ≤ b.toNat then s.raise .badOperand
      else s.withPsnr (s.blockAt a.toNat) (s.blockAt b.toNat)) :=
  congrArg Host.Outcome.next (whenRunning_of_running hr _)

theorem exec_psnr_of_halted (hh : s.err ≠ 0) : exec (.psnr a b) s = .next s :=
  congrArg Host.Outcome.next (whenRunning_of_halted hh _)

theorem exec_psnr_of_past_nblk (hr : s.err = 0) (hpast : s.nblk.toNat ≤ a.toNat ∨ s.nblk.toNat ≤ b.toNat) :
    exec (.psnr a b) s = .next { s with err := 4 } := by
  rw [exec_psnr_of_running hr, if_pos hpast, State.raise_of_running hr, ErrorCode.code]

theorem exec_psnr_of_below_nblk (hr : s.err = 0) (ha : a.toNat < s.nblk.toNat) (hb : b.toNat < s.nblk.toNat) :
    exec (.psnr a b) s = .next (s.withPsnr (s.blockAt a.toNat) (s.blockAt b.toNat)) := by
  rw [exec_psnr_of_running hr, if_neg (not_or.2 ⟨ha.not_ge, hb.not_ge⟩)]

end

/-- Settles O12: on a running machine a block number past the collection raises BadOperand. -/
theorem psnrRefusesBlockNumbersPastNblk : Obligations.PsnrRefusesBlockNumbersPastNblk :=
  fun _ _ _ hr hpast => exec_psnr_of_past_nblk hr hpast

/-- Settles O13: the range check and what is written are both symmetric. -/
theorem psnrCommandIsSymmetric : Obligations.PsnrCommandIsSymmetric := by
  intro a b s
  by_cases hr : s.err = 0
  · rw [exec_psnr_of_running hr, exec_psnr_of_running hr, State.withPsnr_comm, if_congr or_comm rfl rfl]
  · rw [exec_psnr_of_halted hr, exec_psnr_of_halted hr]

/-- Settles O11: the registers hold the channel sums, and the PSNR of the largest is the least PSNR. -/
theorem psnrWritesChannelSumsAndWorstPsnr : Obligations.PsnrWritesChannelSumsAndWorstPsnr := by
  intro a b s hr ha hb
  refine ⟨_, exec_psnr_of_below_nblk hr ha hb, by simp only [State.withPsnr], fun ch => ?sums, ?worst⟩
  case sums =>
    rw [← s.channelSse_blockAt, ← channelSse_toNat_ofNat]
    cases ch with
    | r => simp only [State.withPsnr_sseR]
    | g => simp only [State.withPsnr_sseG]
    | b => simp only [State.withPsnr_sseB]
  case worst =>
    simp only [State.withPsnr_sseR, State.withPsnr_sseG, State.withPsnr_sseB, State.withPsnr_psnrv,
      channelSse_toNat_ofNat]
    exact (psnr_eq_psnrch_msse _ _).symm

end Sys2Proof.Machine

/-! # Proofs: the histogram's buckets -/

namespace Sys2Proof.Machine

/-! ## The bucket of a pattern (R175) -/

theorem bucket_le (p : Word) : bucket p ≤ 51 := by unfold bucket; omega

/-- A value reaches a positive integer by rounding exactly when it is at most one half below it. -/
theorem le_roundHalfAway_iff {v : ℚ} {k : ℤ} (hk : 1 ≤ k) : k ≤ roundHalfAway v ↔ (k : ℚ) - 1 / 2 ≤ v := by
  have hkq : (1 : ℚ) ≤ k := by exact_mod_cast hk
  unfold roundHalfAway
  split_ifs with hv
  · rw [Int.le_floor, sub_le_iff_le_add]
  · have hfloor : 0 ≤ ⌊-v + 1 / 2⌋ := Int.floor_nonneg.2 (by linarith)
    exact iff_of_false (by omega) (by linarith)

theorem le_bucket_iff {p : Word} {k : Nat} (hpos : 1 ≤ k) (hk : k ≤ 51) :
    k ≤ bucket p ↔ (k : ℚ) - 1 / 2 ≤ binary64Val p := by
  have hround := le_roundHalfAway_iff (v := binary64Val p) (k := k) (by omega)
  rw [Int.cast_natCast] at hround
  rw [← hround]
  unfold bucket
  omega

/-! ## The integer bucket (R177) -/

theorem bucketBounds_antitone : Antitone fun k : Fin 52 => bucketBounds[k] := Fin.antitone_iff_succ_le.2 (by decide)

/-- The scan of a rising list for the last element that passes a test ends at the largest that does, if its start
passes and is below them all. -/
theorem foldl_last_spec (pass : Fin 52 → Prop) [DecidablePred pass] (l : List (Fin 52)) (start : Fin 52)
    (hrising : (start :: l).Pairwise (· ≤ ·)) (hstart : pass start) :
    pass (l.foldl (fun best k => if pass k then k else best) start) ∧
      start ≤ l.foldl (fun best k => if pass k then k else best) start ∧
      ∀ k ∈ l, pass k → k ≤ l.foldl (fun best k => if pass k then k else best) start := by
  induction l generalizing start with
  | nil => exact ⟨hstart, le_refl _, fun k hk => absurd hk List.not_mem_nil⟩
  | cons x xs ih =>
    obtain ⟨hhead, htail⟩ := List.pairwise_cons.1 hrising
    rw [List.foldl_cons]
    split_ifs with hx
    · obtain ⟨hpass, hge, hlast⟩ := ih x htail hx
      refine ⟨hpass, (hhead x List.mem_cons_self).trans hge, fun k hk hpk => ?_⟩
      rcases List.mem_cons.1 hk with rfl | hk
      · exact hge
      · exact hlast k hk hpk
    · have hrest : (start :: xs).Pairwise (· ≤ ·) :=
        List.pairwise_cons.2 ⟨fun k hk => hhead k (List.mem_cons_of_mem _ hk), (List.pairwise_cons.1 htail).2⟩
      obtain ⟨hpass, hge, hlast⟩ := ih start hrest hstart
      refine ⟨hpass, hge, fun k hk hpk => ?_⟩
      rcases List.mem_cons.1 hk with rfl | hk
      · exact absurd hpk hx
      · exact hlast k hk hpk

/-- R177: `bucketS m` is the largest index whose bound is at least `m`. -/
theorem le_bucketS_iff {m : Nat} (hm : m ≤ sseMax) {k : Fin 52} : k ≤ bucketS m ↔ m ≤ bucketBounds[k] := by
  unfold bucketS
  split_ifs with hzero
  · exact iff_of_true (Fin.le_last k) (hzero ▸ Nat.zero_le _)
  · have hrising : ((0 : Fin 52) :: List.finRange 52).Pairwise (· ≤ ·) :=
      List.pairwise_cons.2 ⟨fun k _ => Fin.zero_le k, (List.pairwise_lt_finRange 52).imp le_of_lt⟩
    obtain ⟨hpass, -, hlast⟩ := foldl_last_spec (fun k => m ≤ bucketBounds[k]) _ 0 hrising hm
    exact ⟨fun hk => hpass.trans (bucketBounds_antitone hk), hlast k (List.mem_finRange k)⟩

/-! ## The table against the logarithm (R177) -/

/-- Bernoulli's inequality, as the least a logarithm grows by. -/
theorem one_lt_mul_logb_one_add {n : Nat} {δ : ℝ} (hδ : 0 ≤ δ) (hn : 9 < n * δ) :
    1 < n * Real.logb 10 (1 + δ) := by
  have hbernoulli : 1 + n * δ ≤ (1 + δ) ^ n := one_add_mul_le_pow (by linarith) n
  rw [← Real.logb_pow, Real.lt_logb_iff_rpow_lt (by norm_num) (by positivity), Real.rpow_one]
  linarith

/-- A relative change of `2 ^ -25` of an error, a twentieth of whose logarithm is still more than the `2 ^ -30` that
P1 of R156 allows. -/
theorem accuracy_lt_logb : 20 * (2 : ℝ) ^ (-30 : ℤ) < 10 * Real.logb 10 (1 + 1 / 2 ^ 25) := by
  have hlog := one_lt_mul_logb_one_add (n := 2 ^ 29) (δ := 1 / 2 ^ 25) (by positivity) (by norm_num)
  push_cast at hlog
  norm_num at hlog ⊢
  linarith

section

variable {s n : Nat}

/-- The power of ten that an error's PSNR exceeds, from a comparison of integers. -/
theorem lt_mul_logb_of_pow_le (hpos : 1 ≤ s) (h : s ^ 20 * 10 ^ n * (2 ^ 25 + 1) ≤ sseMax ^ 20 * 2 ^ 25) :
    (n : ℝ) / 2 + 2 ^ (-30 : ℤ) < 10 * Real.logb 10 ((sseMax : ℝ) / s) := by
  have hs : (0 : ℝ) < s := by exact_mod_cast hpos
  have hreal : (s : ℝ) ^ 20 * 10 ^ n * (2 ^ 25 + 1) ≤ (sseMax : ℝ) ^ 20 * 2 ^ 25 := by exact_mod_cast h
  have hpow : (10 : ℝ) ^ n * (1 + 1 / 2 ^ 25) ≤ ((sseMax : ℝ) / s) ^ 20 := by
    rw [div_pow, le_div_iff₀ (by positivity)]
    linarith
  have hlog := Real.logb_le_logb_of_le (b := 10) (by norm_num) (by positivity) hpow
  rw [Real.logb_mul (by positivity) (by positivity), Real.logb_pow, Real.logb_pow,
    Real.logb_self_eq_one (by norm_num)] at hlog
  have := accuracy_lt_logb
  push_cast at hlog
  linarith

/-- The power of ten that an error's PSNR stays below, from a comparison of integers. -/
theorem mul_logb_lt_of_le_pow (hpos : 1 ≤ s) (h : sseMax ^ 20 * (2 ^ 25 + 1) ≤ s ^ 20 * 10 ^ n * 2 ^ 25) :
    10 * Real.logb 10 ((sseMax : ℝ) / s) + 2 ^ (-30 : ℤ) < (n : ℝ) / 2 := by
  have hs : (0 : ℝ) < s := by exact_mod_cast hpos
  have hmax : (0 : ℝ) < sseMax := by norm_num [sseMax]
  have hreal : (sseMax : ℝ) ^ 20 * (2 ^ 25 + 1) ≤ (s : ℝ) ^ 20 * 10 ^ n * 2 ^ 25 := by exact_mod_cast h
  have hpow : ((sseMax : ℝ) / s) ^ 20 * (1 + 1 / 2 ^ 25) ≤ 10 ^ n := by
    rw [div_pow, div_mul_eq_mul_div, div_le_iff₀ (by positivity)]
    linarith
  have hlog := Real.logb_le_logb_of_le (b := 10) (by norm_num) (by positivity) hpow
  rw [Real.logb_mul (by positivity) (by positivity), Real.logb_pow, Real.logb_pow,
    Real.logb_self_eq_one (by norm_num)] at hlog
  have := accuracy_lt_logb
  push_cast at hlog
  linarith

end

/-- R177's table, both sides of every bound: twentieth powers, so that the half and the tenth of the exponent are
whole. -/
theorem bucketBounds_pow : ∀ k : Fin 52, 1 ≤ k.val →
    1 ≤ bucketBounds[k] ∧ bucketBounds[k] + 1 ≤ sseMax ∧
    bucketBounds[k] ^ 20 * 10 ^ (2 * k.val - 1) * (2 ^ 25 + 1) ≤ sseMax ^ 20 * 2 ^ 25 ∧
    sseMax ^ 20 * (2 ^ 25 + 1) ≤ (bucketBounds[k] + 1) ^ 20 * 10 ^ (2 * k.val - 1) * 2 ^ 25 := by
  decide

section

variable {k : Fin 52}

theorem half_step_eq (hk : 1 ≤ k.val) : ((2 * k.val - 1 : ℕ) : ℝ) / 2 = (k.val : ℝ) - 1 / 2 := by
  rw [Nat.cast_sub (by omega)]
  push_cast
  ring

/-- At a bound the PSNR is past its half step, by more than P1 of R156 allows an error. -/
theorem half_step_lt_mul_logb (hk : 1 ≤ k.val) :
    (k.val : ℝ) - 1 / 2 + 2 ^ (-30 : ℤ) < 10 * Real.logb 10 ((sseMax : ℝ) / bucketBounds[k]) := by
  obtain ⟨hpos, -, hpow, -⟩ := bucketBounds_pow k hk
  rw [← half_step_eq hk]
  exact lt_mul_logb_of_pow_le hpos hpow

/-- One past a bound the PSNR is short of that half step, by more than P1 of R156 allows an error. -/
theorem mul_logb_lt_half_step (hk : 1 ≤ k.val) :
    10 * Real.logb 10 ((sseMax : ℝ) / (bucketBounds[k] + 1 : ℕ)) + 2 ^ (-30 : ℤ) < (k.val : ℝ) - 1 / 2 := by
  obtain ⟨-, -, -, hpow⟩ := bucketBounds_pow k hk
  rw [← half_step_eq hk]
  exact mul_logb_lt_of_le_pow (Nat.le_add_left 1 _) hpow

/-- R177: the table is the floor the rule gives. -/
theorem bucketBounds_eq_floor (hk : 1 ≤ k.val) :
    (bucketBounds[k] : ℤ) = ⌊(1040400 : ℝ) / (10 : ℝ) ^ (((k.val : ℝ) - 1 / 2) / 10)⌋ := by
  obtain ⟨hpos, -, -, -⟩ := bucketBounds_pow k hk
  have hbound : (0 : ℝ) < bucketBounds[k] := by exact_mod_cast hpos
  have hmax : (sseMax : ℝ) = 1040400 := by norm_num [sseMax]
  have hmargin : (0 : ℝ) < 2 ^ (-30 : ℤ) := by positivity
  have hat := half_step_lt_mul_logb hk
  have hpast := mul_logb_lt_half_step hk
  rw [hmax] at hat hpast
  have hlow : (10 : ℝ) ^ (((k.val : ℝ) - 1 / 2) / 10) < 1040400 / bucketBounds[k] :=
    (Real.lt_logb_iff_rpow_lt (by norm_num) (by positivity)).1 (by linarith)
  have hhigh : 1040400 / (bucketBounds[k] + 1 : ℕ) < (10 : ℝ) ^ (((k.val : ℝ) - 1 / 2) / 10) :=
    (Real.logb_lt_iff_lt_rpow (by norm_num) (by positivity)).1 (by linarith)
  symm
  rw [Int.floor_eq_iff, le_div_iff₀ (by positivity), div_lt_iff₀ (by positivity)]
  rw [lt_div_iff₀ hbound] at hlow
  rw [div_lt_iff₀ (by positivity)] at hhigh
  push_cast at hhigh ⊢
  constructor <;> linarith

/-- Whatever the logarithm unit, the half step lies between the PSNR of a bound and that of the next error. -/
theorem half_step_le_val_psnrch_iff {m : Nat} (hm : m ≤ sseMax) (hk : 1 ≤ k.val) :
    (k.val : ℚ) - 1 / 2 ≤ binary64Val (psnrch m) ↔ m ≤ bucketBounds[k] := by
  obtain ⟨hpos, hmax, -, -⟩ := bucketBounds_pow k hk
  have haccurate {s : Nat} (h1 : 1 ≤ s) (hs : s ≤ sseMax) :=
    abs_le.1 (psnrch_of_pos h1 ▸ Config.psnrch_isPsnrUnit.accuracy s h1 hs)
  constructor
  · intro hval
    by_contra hpast
    have hmono := strictAntiOn_val_psnrch.antitoneOn hmax hm (by omega : bucketBounds[k] + 1 ≤ m)
    have hshort : binary64Val (psnrch (bucketBounds[k] + 1)) < (k.val : ℚ) - 1 / 2 := by
      rify
      linarith [mul_logb_lt_half_step hk, (haccurate (Nat.le_add_left 1 _) hmax).2]
    exact absurd (hval.trans hmono) hshort.not_ge
  · intro hle
    have hmono := strictAntiOn_val_psnrch.antitoneOn hm (Nat.le_of_succ_le hmax) hle
    refine le_trans ?_ hmono
    rify
    linarith [half_step_lt_mul_logb hk, (haccurate hpos (Nat.le_of_succ_le hmax)).1]

end

theorem bucket_psnrch {m : Nat} (hm : m ≤ sseMax) : bucket (psnrch m) = (bucketS m).val := by
  refine eq_of_forall_le_iff fun k => ?_
  rcases Nat.eq_zero_or_pos k with rfl | hpos
  · exact iff_of_true (Nat.zero_le _) (Nat.zero_le _)
  rcases Nat.lt_or_ge 51 k with hbig | hk
  · have := bucket_le (psnrch m)
    exact iff_of_false (by omega) (by omega)
  · have hbound := half_step_le_val_psnrch_iff (k := ⟨k, Nat.lt_succ_of_le hk⟩) hm hpos
    rw [le_bucket_iff hpos hk, hbound, ← le_bucketS_iff hm, Fin.le_def]

/-- Settles O26: both buckets reach `k` exactly when the error is at most the table's `k`-th bound. -/
theorem integerBucketAgreesWithRounding : Obligations.IntegerBucketAgreesWithRounding :=
  ⟨fun _ hm => bucket_psnrch hm, rfl,
    fun _ _ hm => ⟨(le_bucketS_iff hm).1 (le_refl _), fun _ => (le_bucketS_iff hm).2⟩, rfl,
    fun _ hk => bucketBounds_eq_floor hk⟩

end Sys2Proof.Machine

/-! # Proofs: the similarity analyzer -/

namespace Sys2Proof.Machine

/-! ## The command (R170, R171) -/

section

variable {s : State}

theorem exec_analyze_of_running (hr : s.err = 0) :
    exec .analyze s = .next
      (if s.nblk = 0 then s.raise .emptyInput else if s.bpr = 0 then s.raise .badOperand else s.buildReport) :=
  congrArg Host.Outcome.next (whenRunning_of_running hr _)

theorem exec_analyze_of_empty (hr : s.err = 0) (hn : s.nblk = 0) : exec .analyze s = .next { s with err := 3 } := by
  rw [exec_analyze_of_running hr, if_pos hn, State.raise_of_running hr, ErrorCode.code]

theorem exec_analyze_of_zero_bpr (hr : s.err = 0) (hn : s.nblk ≠ 0) (hb : s.bpr = 0) :
    exec .analyze s = .next { s with err := 4 } := by
  rw [exec_analyze_of_running hr, if_neg hn, if_pos hb, State.raise_of_running hr, ErrorCode.code]

theorem exec_analyze_of_blocks (hr : s.err = 0) (hn : s.nblk ≠ 0) (hb : s.bpr ≠ 0) :
    exec .analyze s = .next s.buildReport := by
  rw [exec_analyze_of_running hr, if_neg hn, if_neg hb]

end

theorem ne_zero_of_two_le {x : BitVec 32} (h : 2 ≤ x.toNat) : x ≠ 0 := by
  rintro rfl
  exact absurd h (by decide)

/-- Settles O23: on a running machine the two entry checks, in their order. -/
theorem analyzeChecksEmptyThenBpr : Obligations.AnalyzeChecksEmptyThenBpr :=
  fun _ hr => ⟨exec_analyze_of_empty hr, exec_analyze_of_zero_bpr hr⟩

/-! ## A row of the report (R172, R173, R179) -/

section

variable {n bpr i : Nat} {sse : Nat → Nat → Nat}

@[simp] theorem reportRow_index : (reportRow n bpr sse i).index = i := rfl
@[simp] theorem reportRow_bpr : (reportRow n bpr sse i).bpr = bpr := rfl
@[simp] theorem reportRow_minPsnr : (reportRow n bpr sse i).minPsnr = psnrch (reportRow n bpr sse i).worstSse := rfl

/-- With no other block to meet, the trackers keep their start values. -/
theorem trackRow_one_zero : trackRow 1 sse 0 = ⟨0, 0, none⟩ := rfl

/-- A row that meets another block has found a best and a worst match, neither of them itself. -/
theorem trackRow_of_two_le (h2 : 2 ≤ n) : ∃ b, (trackRow n sse i).bestSse = some b ∧
    ((trackRow n sse i).best < n ∧ (trackRow n sse i).best ≠ i ∧ sse i (trackRow n sse i).best = b) ∧
    ∃ j, j < n ∧ j ≠ i ∧ sse i j = (trackRow n sse i).worst := by
  rcases (trackRow_spec n sse i).2 with ⟨-, hall⟩ | ⟨b, hb, hlt, hne, heq, hworst, -⟩
  · have h0 := hall 0 (by omega)
    have h1 := hall 1 (by omega)
    omega
  · exact ⟨b, hb, ⟨hlt, hne, heq⟩, hworst⟩

theorem reportRow_maxPsnr (h2 : 2 ≤ n) : (reportRow n bpr sse i).maxPsnr = psnrch (reportRow n bpr sse i).bestSse := by
  obtain ⟨b, hb, -⟩ := trackRow_of_two_le (sse := sse) (i := i) h2
  simp [reportRow, hb]

theorem reportRow_paired (h2 : 2 ≤ n) : (reportRow n bpr sse i).paired = true := decide_eq_true h2

theorem reportRow_best_ne (h2 : 2 ≤ n) :
    (reportRow n bpr sse i).best < n ∧ (reportRow n bpr sse i).best ≠ i ∧
      sse i (reportRow n bpr sse i).best = (reportRow n bpr sse i).bestSse := by
  obtain ⟨b, hb, ⟨hlt, hne, heq⟩, -⟩ := trackRow_of_two_le (sse := sse) (i := i) h2
  exact ⟨hlt, hne, by simp [reportRow, hb, heq]⟩

theorem exists_sse_eq_worstSse (h2 : 2 ≤ n) :
    ∃ j, j < n ∧ j ≠ i ∧ sse i j = (reportRow n bpr sse i).worstSse := by
  obtain ⟨-, -, -, hworst⟩ := trackRow_of_two_le (sse := sse) (i := i) h2
  exact hworst

/-- The best and the worst SSE of a row bound those of every other block, and of several best blocks the last is
taken (R174). -/
theorem reportRow_bounds {j : Nat} (hj : j < n) (hne : j ≠ i) :
    (reportRow n bpr sse i).bestSse ≤ sse i j ∧ sse i j ≤ (reportRow n bpr sse i).worstSse ∧
      (sse i j = (reportRow n bpr sse i).bestSse → j ≤ (reportRow n bpr sse i).best) := by
  obtain ⟨hworst, ⟨-, hall⟩ | ⟨b, hb, -, -, -, -, hbest⟩⟩ := trackRow_spec n sse i
  · exact absurd (hall j hj) hne
  · have hsse : (reportRow n bpr sse i).bestSse = b := by simp [reportRow, hb]
    rw [hsse]
    exact ⟨(hbest j hj hne).1, hworst j hj hne, (hbest j hj hne).2⟩

theorem reportRow_best_lt (hi : i < n) : (reportRow n bpr sse i).best < n := by
  rcases (trackRow_spec n sse i).2 with ⟨hstart, -⟩ | ⟨b, -, hlt, -⟩
  · simpa [reportRow, hstart] using hi
  · exact hlt

end

/-! ## The words of a row (R95) -/

theorem lowField_pairWord {low : Nat} (h : low < 2 ^ 32) (high : Nat) : lowField (pairWord low high) = low :=
  (pairWord_low_toNat low high).trans (Nat.mod_eq_of_lt h)

theorem highField_pairWord {high : Nat} (h : high < 2 ^ 32) (low : Nat) : highField (pairWord low high) = high :=
  (pairWord_high_toNat low high).trans (Nat.mod_eq_of_lt h)

theorem pairWord_eq_ofNat {low high : Nat} (hlow : low < 2 ^ 32) (hhigh : high < 2 ^ 32) :
    pairWord low high = BitVec.ofNat 64 (low + high * 2 ^ 32) := by
  rw [pairWord, Nat.mod_eq_of_lt hlow, Nat.mod_eq_of_lt hhigh]

theorem ReportRow.word_five (r : ReportRow) :
    r.word 5 = BitVec.ofNat 64 (r.bestSse + r.worstSse * 2 ^ 32 + r.paired.toNat * 2 ^ 63) := rfl

theorem blockX_lt {i : Nat} (hi : i < 2 ^ 24) (bpr : Nat) : blockX bpr i < 2 ^ 26 := by
  have := Nat.mod_le i bpr
  unfold blockX
  omega

theorem blockY_lt {i : Nat} (hi : i < 2 ^ 24) (bpr : Nat) : blockY bpr i < 2 ^ 26 := by
  have := Nat.div_le_self i bpr
  unfold blockY
  omega

/-- R176: the coordinates of a block of the collection, in a word whose fields have room for them. -/
theorem coordinateWord_fields {i : Nat} (hi : i < 2 ^ 24) (bpr : Nat) :
    lowField (pairWord (blockX bpr i) (blockY bpr i)) = i % bpr * 4 ∧
      highField (pairWord (blockX bpr i) (blockY bpr i)) = i / bpr * 4 ∧
      lowField (pairWord (blockX bpr i) (blockY bpr i)) < 2 ^ 26 ∧
      highField (pairWord (blockX bpr i) (blockY bpr i)) < 2 ^ 26 := by
  have hx := blockX_lt hi bpr
  have hy := blockY_lt hi bpr
  rw [lowField_pairWord (by omega), highField_pairWord (by omega)]
  exact ⟨rfl, rfl, hx, hy⟩

section

variable {s : State} {i : Nat}

/-- R95: word 2 of a row, the block and its best match. -/
theorem State.rptWord_buildReport_match (hi : i < s.nblk.toNat) :
    s.buildReport.rptWord (8 * i + 2) = pairWord i (s.row i).best := by
  rw [s.rptWord_buildReport_row i 2 hi (by decide), ReportRow.word_two, State.row, reportRow_index]

/-- R95, R176: word 3 of a row, the coordinates of the block. -/
theorem State.rptWord_buildReport_position (hi : i < s.nblk.toNat) :
    s.buildReport.rptWord (8 * i + 3) = pairWord (blockX s.bpr.toNat i) (blockY s.bpr.toNat i) := by
  rw [s.rptWord_buildReport_row i 3 hi (by decide), ReportRow.word_three, State.row, reportRow_index, reportRow_bpr]

/-- R95, R176: word 4 of a row, the coordinates of the best match. -/
theorem State.rptWord_buildReport_match_position (hi : i < s.nblk.toNat) :
    s.buildReport.rptWord (8 * i + 4) =
      pairWord (blockX s.bpr.toNat (s.row i).best) (blockY s.bpr.toNat (s.row i).best) := by
  rw [s.rptWord_buildReport_row i 4 hi (by decide), ReportRow.word_four, State.row, reportRow_bpr]

theorem State.row_best_lt (hi : i < s.nblk.toNat) : (s.row i).best < s.nblk.toNat := reportRow_best_lt hi

theorem State.highField_match (hi : i < s.nblk.toNat) :
    highField (s.buildReport.rptWord (8 * i + 2)) = (s.row i).best := by
  rw [State.rptWord_buildReport_match hi, highField_pairWord ((s.row_best_lt hi).trans s.nblk.isLt)]

end

/-- Settles O21: the frame is that of the report's memory, and NB_MAX leaves the coordinates their room. -/
theorem analyzeWritesCoordinatesAndFrame : Obligations.AnalyzeWritesCoordinatesAndFrame := by
  intro s hr hn hcap hb
  refine ⟨_, exec_analyze_of_blocks hr hn hb, rfl, fun k hnew hold => ?frame, fun i hi => ?row⟩
  case frame => rw [State.rptWord_buildReport, if_neg hnew.not_gt, if_neg hold.not_gt]
  case row =>
    have hroom {j : Nat} (hj : j < s.nblk.toNat) : j < 2 ^ 24 := hj.trans_le (hcap.trans Config.nbMax_le)
    have hbest := s.row_best_lt hi
    have hword {w : Nat} (hw : w < 8) := s.rptWord_buildReport_row i w hi hw
    obtain ⟨hx, hy, hx26, hy26⟩ := coordinateWord_fields (hroom hi) s.bpr.toNat
    obtain ⟨hbx, hby, hbx26, hby26⟩ := coordinateWord_fields (hroom hbest) s.bpr.toNat
    rw [← State.rptWord_buildReport_position hi] at hx hy hx26 hy26
    rw [← State.rptWord_buildReport_match_position hi] at hbx hby hbx26 hby26
    rw [State.highField_match hi]
    refine ⟨?_, hbest, hx, hy, hbx, hby, ?_, hword (by decide), hword (by decide)⟩
    · rw [State.rptWord_buildReport_match hi, lowField_pairWord (hi.trans s.nblk.isLt)]
    · rintro w (rfl | rfl)
      · exact ⟨hx26, hy26⟩
      · exact ⟨hbx26, hby26⟩

/-- R173: the row of the only block, sentinels and zero fields. -/
theorem State.row_of_one_block {s : State} (hn : s.nblk = 1) :
    s.row 0 = ⟨psnrInf, psnrNeg, 0, 0, s.bpr.toNat, 0, 0, false⟩ := by
  rw [State.row, reportRow, hn, show (1 : BitVec 32).toNat = 1 from rfl, trackRow_one_zero]
  rfl

/-- Settles O22: the only row keeps the trackers' start values, and no counter goes up. -/
theorem analyzeOfOneBlock : Obligations.AnalyzeOfOneBlock := by
  intro s hr hn hb
  have hone : s.nblk.toNat = 1 := by rw [hn]; rfl
  have hword (w : Nat) (hw : w < 8) : s.buildReport.rptWord w = (s.row 0).word w := by
    simpa using s.rptWord_buildReport_row 0 w (by omega) hw
  refine ⟨_, exec_analyze_of_blocks hr (by simp [hn]) hb, ?_, ?_, fun w hlow hw => ?zeros, fun k => ?counters, hn⟩
  · rw [hword 0 (by decide), State.row_of_one_block hn]
    rfl
  · rw [hword 1 (by decide), State.row_of_one_block hn]
    rfl
  case zeros =>
    rw [hword w hw, State.row_of_one_block hn]
    interval_cases w <;> simp [ReportRow.word_five, blockX, blockY, pairWord]
  case counters =>
    rw [State.buildReport_hist, hone, histogram_of_lt_two _ _ (by decide), Fin.getElem_fin, Vector.getElem_replicate]

/-! ## Two or more blocks (R179, R180) -/

/-- Settles O20: the rows carry what the trackers found, and each row counts in the bucket of its best SSE. -/
theorem analyzeReportInIntegers : Obligations.AnalyzeReportInIntegers := by
  intro s hr hb h2
  refine ⟨_, fun i => (s.row i).best, fun i => (s.row i).bestSse, fun i => (s.row i).worstSse,
    exec_analyze_of_blocks hr (ne_zero_of_two_le h2) hb, fun i hi => ?rows, fun k => ?counters⟩
  case rows =>
    refine ⟨reportRow_best_ne h2, exists_sse_eq_worstSse h2, fun j hj hne => reportRow_bounds hj hne, ?_, ?_, ?_, ?_⟩
    · rw [← Nat.add_zero (8 * i), s.rptWord_buildReport_row i 0 hi (by decide), ReportRow.word_zero]
      exact reportRow_minPsnr
    · rw [s.rptWord_buildReport_row i 1 hi (by decide), ReportRow.word_one]
      exact reportRow_maxPsnr h2
    · rw [State.rptWord_buildReport_match hi,
        pairWord_eq_ofNat (hi.trans s.nblk.isLt) ((s.row_best_lt hi).trans s.nblk.isLt)]
    · have hpaired : (s.row i).paired = true := reportRow_paired h2
      rw [s.rptWord_buildReport_row i 5 hi (by decide), ReportRow.word_five, hpaired, Bool.toNat_true, one_mul]
  case counters => rw [State.buildReport_hist, histogram_get _ _ h2 s.nblk.isLt]

/-- R180: every row of two or more counts once. -/
theorem histTotal_histogram {n : Nat} (h2 : 2 ≤ n) (hlt : n < 2 ^ 32) (bestSse : Nat → Nat) :
    histTotal (histogram n bestSse) = n :=
  calc histTotal (histogram n bestSse) = ∑ k : Fin 52, (histogram n bestSse)[k].toNat := histTotal_eq_sum _
    _ = ∑ k : Fin 52, ((Finset.range n).filter fun i => bucketS (bestSse i) = k).card :=
      Finset.sum_congr rfl fun k _ => histogram_get n bestSse h2 hlt k
    _ = (Finset.range n).card := (Finset.card_eq_sum_card_fiberwise fun _ _ => by simp).symm
    _ = n := Finset.card_range n

/-- Rows whose best SSEs are all 0 count in the last bucket. -/
theorem histogram_last_of_zero {n : Nat} (h2 : 2 ≤ n) (hlt : n < 2 ^ 32) {bestSse : Nat → Nat}
    (hzero : ∀ i, i < n → bestSse i = 0) : (histogram n bestSse)[(51 : Fin 52)].toNat = n := by
  rw [histogram_get n bestSse h2 hlt, List.filter_eq_self.2, List.length_range]
  intro i hi
  rw [hzero i (List.mem_range.1 hi)]
  rfl

/-- Settles O24: by the sum of the counters, the tracker that skips its own block, and a zero best SSE. -/
theorem analyzeConservesCountsAndExcludesSelf : Obligations.AnalyzeConservesCountsAndExcludesSelf := by
  intro s hr hn hb
  refine ⟨_, exec_analyze_of_blocks hr hn hb, fun h2 => ⟨?sum, fun i hi => ?self⟩, fun hone => ?one,
    fun hfour heq => ?identical⟩
  case sum => rw [State.buildReport_hist, histTotal_histogram h2 s.nblk.isLt]
  case self =>
    rw [State.highField_match hi]
    exact (reportRow_best_ne h2).2.1
  case one =>
    rw [State.buildReport_hist, hone, histogram_of_lt_two _ _ (by decide), histTotal_replicate_zero]
  case identical =>
    have h4 : s.nblk.toNat = 4 := by rw [hfour]; rfl
    have h2 : 2 ≤ s.nblk.toNat := by omega
    have hzero (i : Nat) (hi : i < s.nblk.toNat) : (s.row i).bestSse = 0 := by
      obtain ⟨hlt, -, hbest⟩ := reportRow_best_ne (sse := s.pairSse) (bpr := s.bpr.toNat) (i := i) h2
      rw [State.row, ← hbest, State.pairSse, msse_eq_zero_iff]
      exact (heq i (by omega)).trans (heq _ (by omega)).symm
    constructor
    · intro i hi
      rw [s.rptWord_buildReport_row i 1 (by omega) (by decide), ReportRow.word_one, State.row, reportRow_maxPsnr h2,
        ← State.row, hzero i (by omega), psnrch_zero]
    · apply BitVec.eq_of_toNat_eq
      rw [State.buildReport_hist]
      exact (histogram_last_of_zero h2 s.nblk.isLt hzero).trans h4

/-! ## What the report depends on (R170) -/

section

variable {n i : Nat}

theorem trackRow_congr {sse sse' : Nat → Nat → Nat} (h : ∀ j, j < n → sse i j = sse' i j) :
    trackRow n sse i = trackRow n sse' i :=
  List.foldl_ext _ _ _ fun t j hj => by rw [h j (List.mem_range.1 hj)]

theorem reportRow_congr {sse sse' : Nat → Nat → Nat} (bpr : Nat) (h : ∀ j, j < n → sse i j = sse' i j) :
    reportRow n bpr sse i = reportRow n bpr sse' i := by
  rw [reportRow, reportRow, trackRow_congr h]

theorem histogram_congr {f g : Nat → Nat} (h : ∀ i, i < n → f i = g i) : histogram n f = histogram n g :=
  List.foldl_ext _ _ _ fun t i hi => by rw [h i (List.mem_range.1 hi)]

end

/-- R42: a block of the collection is its sixteen words of BS. -/
theorem State.blockAt_congr {s u : State} {k : Nat} (h : ∀ t, t < 16 → s.bsWord (16 * k + t) = u.bsWord (16 * k + t)) :
    s.blockAt k = u.blockAt k :=
  Vector.ext fun t ht => by
    have hs := s.blockAt_getElem k ⟨t, ht⟩
    have hu := u.blockAt_getElem k ⟨t, ht⟩
    rw [Fin.getElem_fin] at hs hu
    rw [hs, hu, h t ht]

/-- Settles O25: the blocks, so the SSEs of their pairs, so the rows are the same. -/
theorem analyzeDependsOnCollectionOnly : Obligations.AnalyzeDependsOnCollectionOnly := by
  intro s u hrs hru hn hb hn0 hb0 hbs
  have hblock (i : Nat) (hi : i < s.nblk.toNat) : s.blockAt i = u.blockAt i :=
    State.blockAt_congr fun t ht => hbs _ (by omega)
  have hrow (i : Nat) (hi : i < s.nblk.toNat) : s.row i = u.row i := by
    rw [State.row, State.row, ← hn, ← hb]
    exact reportRow_congr _ fun j hj => by rw [State.pairSse, State.pairSse, hblock i hi, hblock j hj]
  refine ⟨_, _, exec_analyze_of_blocks hrs hn0 hb0, exec_analyze_of_blocks hru (hn ▸ hn0) (hb ▸ hb0), ?_, hn,
    fun k hk => ?_⟩
  · rw [State.buildReport_hist, State.buildReport_hist, ← hn]
    exact histogram_congr fun i hi => by rw [hrow i hi]
  · rw [State.rptWord_buildReport, State.rptWord_buildReport, ← hn, if_pos hk, if_pos hk, hrow _ (by omega)]

/-! ## The report by binary64 comparisons (R172) -/

/-- The running variables of R172's loop that the integer trackers stand for (R159). -/
def Tracker.toPsnr (t : Tracker) : PsnrTracker :=
  ⟨psnrch t.worst, t.worst, (t.bestSse.map psnrch).getD psnrNeg, t.best, t.bestSse.getD 0⟩

theorem binary64Ge_iff {p q : Word} : binary64Ge p q = true ↔ binary64Val q ≤ binary64Val p := decide_eq_true_iff

/-- R159: on PSNRs the binary64 comparison is that of the SSEs, turned round. -/
theorem binary64Ge_psnrch_iff {m n : Nat} (hm : m ≤ sseMax) (hn : n ≤ sseMax) :
    binary64Ge (psnrch m) (psnrch n) = true ↔ m ≤ n :=
  binary64Ge_iff.trans (strictAntiOn_val_psnrch.le_iff_ge hn hm)

/-- R173: every PSNR replaces the start value of the maximum tracker. -/
theorem binary64Ge_psnrch_psnrNeg {m : Nat} (hm : m ≤ sseMax) : binary64Ge (psnrch m) psnrNeg = true := by
  have hneg : binary64Val psnrNeg ≤ 0 := by
    rw [binary64Val, if_pos (by decide)]
    exact neg_nonpos.2 (binary64Magnitude_nonneg _)
  have hpos : 0 ≤ binary64Val (psnrch m) := by
    have hsign : binary64Sign (psnrch m) = false := by
      rcases psnrch_zero_or_positiveNormal hm with h | h
      · rw [h]
        decide
      · exact (isPositiveNormal_iff.1 h).1
    rw [binary64Val, hsign]
    exact binary64Magnitude_nonneg _
  exact binary64Ge_iff.2 (hneg.trans hpos)

section

variable {t : Tracker} {m : Nat}

/-- The maximum tracker accepts by binary64 comparison what it accepts by SSE. -/
theorem Tracker.binary64Ge_toPsnr_iff (hbest : ∀ b, t.bestSse = some b → b ≤ sseMax) (hm : m ≤ sseMax) :
    binary64Ge (psnrch m) t.toPsnr.maxP = true ↔ t.accepts m = true := by
  unfold Tracker.toPsnr Tracker.accepts
  cases hb : t.bestSse with
  | none => exact iff_of_true (binary64Ge_psnrch_psnrNeg hm) rfl
  | some b => exact (binary64Ge_psnrch_iff hm (hbest b hb)).trans decide_eq_true_iff.symm

/-- One turn of R172's loop, variable by variable. -/
theorem PsnrTracker.observe_eq (t : PsnrTracker) (j : Nat) (p : Word) (m : Nat) : t.observe j p m =
    ⟨if binary64Lt p t.minP then p else t.minP, if binary64Lt p t.minP then m else t.worst,
      if binary64Ge p t.maxP then p else t.maxP, if binary64Ge p t.maxP then j else t.best,
      if binary64Ge p t.maxP then m else t.bestS⟩ := by
  simp only [PsnrTracker.observe, apply_ite PsnrTracker.maxP, ite_self]
  split_ifs <;> rfl

/-- One turn of R172's loop does to the running variables what the trackers do on integers. -/
theorem Tracker.toPsnr_observe (hworst : t.worst ≤ sseMax) (hbest : ∀ b, t.bestSse = some b → b ≤ sseMax)
    (hm : m ≤ sseMax) (j : Nat) : (t.observe j m).toPsnr = t.toPsnr.observe j (psnrch m) m := by
  have hmin : binary64Lt (psnrch m) t.toPsnr.minP = true ↔ t.worst < m := binary64Lt_psnrch_iff hm hworst
  have hmax := Tracker.binary64Ge_toPsnr_iff hbest hm
  rw [PsnrTracker.observe_eq, if_congr hmin rfl rfl, if_congr hmin rfl rfl, if_congr hmax rfl rfl,
    if_congr hmax rfl rfl, if_congr hmax rfl rfl]
  simp only [Tracker.toPsnr, Tracker.observe_worst, Tracker.observe_best, Tracker.observe_bestSse,
    apply_ite psnrch, apply_ite (Option.map psnrch), apply_ite (Option.getD · psnrNeg), apply_ite (Option.getD · 0),
    Option.map_some, Option.getD_some]

end

section

variable (n bpr : Nat) (blocks : Nat → DecodedBlock) (i : Nat)

theorem psnrTrackRow_succ : psnrTrackRow (n + 1) blocks i =
    if n = i then psnrTrackRow n blocks i
    else (psnrTrackRow n blocks i).observe n (psnr (blocks i) (blocks n)) (msse (blocks i) (blocks n)) := by
  simp [psnrTrackRow, List.range_succ]

/-- R172's loop ends at the running variables the integer trackers stand for. -/
theorem psnrTrackRow_eq_toPsnr :
    psnrTrackRow n blocks i = (trackRow n (fun i j => msse (blocks i) (blocks j)) i).toPsnr := by
  induction n with
  | zero => rfl
  | succ n ih =>
    obtain ⟨hworst, hbest⟩ := trackRow_le (sse := fun i j => msse (blocks i) (blocks j)) (i := i)
      (fun j => msse_le _ _) n
    rw [psnrTrackRow_succ, trackRow_succ, ih, psnr_eq_psnrch_msse, apply_ite Tracker.toPsnr,
      Tracker.toPsnr_observe hworst hbest (msse_le _ _)]

theorem rowByPsnr_eq_reportRow :
    rowByPsnr n bpr blocks i = reportRow n bpr (fun i j => msse (blocks i) (blocks j)) i := by
  rw [rowByPsnr, psnrTrackRow_eq_toPsnr]
  rfl

/-- The histogram of the rounded PSNRs is that of the integer buckets (R175, R177). -/
theorem psnrHistogram_eq_histogram : psnrHistogram n blocks =
    histogram n fun i => (reportRow n bpr (fun i j => msse (blocks i) (blocks j)) i).bestSse := by
  refine List.foldl_ext _ _ _ fun h i _ => ?_
  split_ifs with h2
  · have hbest := (reportRow_best_ne (bpr := bpr) (sse := fun i j => msse (blocks i) (blocks j)) (i := i) h2).2.2
    have hmax : (psnrTrackRow n blocks i).maxP =
        psnrch (reportRow n bpr (fun i j => msse (blocks i) (blocks j)) i).bestSse := by
      rw [← reportRow_maxPsnr h2, ← rowByPsnr_eq_reportRow]
      rfl
    rw [hmax, bucket_psnrch (hbest ▸ msse_le _ _), Fin.ofNat_val_eq_self]
  · rfl

end

/-- R172, R177: the report construction by binary64 comparisons is that on integers. -/
theorem State.buildReportByPsnr_eq_buildReport (s : State) : s.buildReportByPsnr = s.buildReport := by
  rw [State.buildReportByPsnr, psnrHistogram_eq_histogram _ s.bpr.toNat, funext (rowByPsnr_eq_reportRow _ _ _)]
  rfl

/-- Settles O19: past the entry checks ANALYZE is the construction on integers, which is R172's. -/
theorem analyzeBuildsReportOfR172 : Obligations.AnalyzeBuildsReportOfR172 := fun s hr hn hb =>
  (exec_analyze_of_blocks hr hn hb).trans (congrArg _ s.buildReportByPsnr_eq_buildReport.symm)

end Sys2Proof.Machine

/-! # Proofs: the system reset -/

namespace Sys2Proof.Machine

/-! ## What a reset leaves (R55, R230) -/

/-- The registers of a machine after a reset read as those of the reset state: the four fields a reset keeps or counts
are no registers. -/
theorem State.readReg_performReset (s : State) (r : Reg) : s.performReset.readReg r = State.reset.readReg r := by
  cases r <;> rfl

/-- R55, R230: a reset leaves the machine just reset, whatever the state before. Each memory is empty, so its words
are the free values of the new reset. -/
theorem State.justReset_performReset (s : State) : JustReset s.performReset := by
  obtain ⟨hregs, hcap, hhist, -⟩ := resetStateHoldsResetValues
  refine ⟨fun r hr => ?_, ?_, hhist, fun _ => ⟨rfl, rfl, rfl⟩⟩
  · rw [State.readReg_performReset, hregs r hr]
  · rw [State.readReg_performReset, hcap]

/-! ## SRST (R190) -/

/-- R190, R205: SRST is the reset, with no check of the halted condition before it. -/
theorem exec_srst (s : State) : exec .srst s = .next s.performReset := rfl

/-- Settles O2: SRST performs the reset, which leaves the machine just reset. -/
theorem srstResetsEverything : Obligations.SrstResetsEverything := fun s =>
  ⟨s.performReset, exec_srst s, s.justReset_performReset, s.performReset_epoch, s.performReset_reports,
    s.performReset_pending, s.performReset_response⟩

end Sys2Proof.Machine

/-! # Proofs: errors and the halted condition -/

namespace Sys2Proof

/-- R14: an access is a command, a host write or a host read. -/
theorem Instr.portCases {motive : Instr → Prop} (command : ∀ c : Command, motive c.toInstr)
    (hwr : ∀ space off data, motive (.hwr space off data)) (hrd : ∀ space off, motive (.hrd space off)) (i : Instr) :
    motive i := by
  cases i with
  | unpack565 imm16 => exact command (.unpack565 imm16)
  | decblk => exact command .decblk
  | decmip => exact command .decmip
  | psnr a b => exact command (.psnr a b)
  | analyze => exact command .analyze
  | srst => exact command .srst
  | hwr space off data => exact hwr space off data
  | hrd space off => exact hrd space off

end Sys2Proof

namespace Sys2Proof.Machine

section

variable {s t : State}

/-! ## While halted (R205) -/

theorem exec_command_of_halted (hh : s.err ≠ 0) {c : Command} (hc : c ≠ .srst) : exec c.toInstr s = .next s := by
  cases c with
  | srst => exact absurd rfl hc
  | unpack565 | decblk | decmip | psnr | analyze => exact congrArg Host.Outcome.next (whenRunning_of_halted hh _)

theorem isSrstWrite_iff {space : BitVec 4} {off : BitVec 32} {data : Word} :
    isSrstWrite space off data = true ↔ space = 0 ∧ off = 0 ∧ data = 0x000000000000000F := by
  rw [isSrstWrite, isCmdAddress, Bool.and_eq_true, Bool.and_eq_true, beq_iff_eq, beq_iff_eq, and_assoc,
    OpcodeRow.accepts_iff_eq rfl, srstRow]

theorem exec_hwr_of_halted (hh : s.err ≠ 0) (space : BitVec 4) (off : BitVec 32) (data : Word) :
    exec (.hwr space off data) s = if isSrstWrite space off data then exec .srst s else .next s :=
  if_pos (s.halted_iff.2 hh)

theorem exec_hrd_of_halted (hh : s.err ≠ 0) (space : BitVec 4) (off : BitVec 32) :
    exec (.hrd space off) s = .next { s with response := some (((Place.locate space off).map s.load).getD 0) } := by
  cases hp : Place.locate space off with
  | none => exact exec_hrd_of_unmapped_halted hh hp
  | some p => exact exec_hrd_of_mapped hp

/-- R205: while halted an access other than SRST leaves all but the response. A write of the SRST word to CMD decodes
to SRST itself, and as an `hwr` it is not well-formed. -/
theorem exec_frame_of_halted (hh : s.err ≠ 0) {i : Instr} (hwf : i.wellFormed = true) (hsrst : i ≠ .srst)
    (h : exec i s = .next t) : ∃ answer, t = { s with response := answer } := by
  cases i using Instr.portCases with
  | command c =>
    rw [exec_command_of_halted hh (ne_of_apply_ne Command.toInstr hsrst)] at h
    cases h
    exact ⟨_, rfl⟩
  | hwr space off data =>
    rcases execHwr_cases (Instr.wellFormed_hwr.1 hwf) h with ⟨-, rfl⟩ | ⟨hr, -⟩ | ⟨hr, -⟩
    · exact ⟨_, rfl⟩
    · exact absurd hr hh
    · exact absurd hr hh
  | hrd space off =>
    rw [exec_hrd_of_halted hh] at h
    cases h
    exact ⟨_, rfl⟩

/-! ## While running (R204) -/

/-- R63, R204: on a running machine a host write performs a command, raises one error, or stores one word. -/
theorem exec_hwr_of_running (hr : s.err = 0) (space : BitVec 4) (off : BitVec 32) (data : Word) :
    (∃ c : Command, exec (.hwr space off data) s = exec c.toInstr s) ∨
      (∃ e : ErrorCode, exec (.hwr space off data) s = .next { s with err := e.code }) ∨
      ∃ p, exec (.hwr space off data) s = .next (s.store data p) := by
  cases hp : Place.locate space off with
  | none => exact .inr (.inl ⟨.busError, exec_hwr_of_unmapped hr hp⟩)
  | some p =>
    cases hfits : p.writeError data with
    | some e => exact .inr (.inl ⟨e, exec_hwr_of_writeError hr hp hfits⟩)
    | none =>
      by_cases hcmd : p = .reg .cmd
      · have hissue : exec (.hwr space off data) s = issueCommand data s := by
          rw [exec_hwr_of_mapped hr hp, writePlace, hfits, hcmd]
          rfl
        cases hdecode : decodeCommand data with
        | ok c => exact .inl ⟨c, hissue.trans (issueCommand_of_ok hdecode)⟩
        | error e =>
          have hillegal := (decodeCommand_error_iff data).1 hdecode
          exact .inr (.inl ⟨.illegalCommand, hissue.trans (issueCommand_of_illegal hr hillegal)⟩)
      · exact .inr (.inr ⟨p, exec_hwr_of_fits hr hp hcmd hfits⟩)

/-- R204: on a running machine a command leaves ERR 0, or raises one error and does nothing else. -/
theorem exec_command_keeps_or_raises (hr : s.err = 0) {c : Command} (h : exec c.toInstr s = .next t) :
    t.err = 0 ∨ ∃ e : ErrorCode, t = { s with err := e.code } := by
  simp only [← State.raise_of_running hr]
  cases c with
  | unpack565 imm16 =>
    rcases execUnpack565_cases h with ⟨hh, -⟩ | ⟨-, rfl⟩
    · exact absurd hr hh
    · exact .inl hr
  | decblk =>
    rcases execDecblk_cases h with ⟨hh, -⟩ | ⟨-, rfl⟩
    · exact absurd hr hh
    · exact .inl hr
  | decmip =>
    rcases execDecmip_cases h with ⟨hh, -⟩ | ⟨-, hraise⟩ | ⟨-, -, -, rfl⟩
    · exact absurd hr hh
    · exact .inr hraise
    · exact .inl hr
  | psnr a b =>
    rcases execPsnr_cases h with ⟨hh, -⟩ | ⟨-, hraise⟩ | ⟨-, -, -, rfl⟩
    · exact absurd hr hh
    · exact .inr hraise
    · exact .inl ((s.withPsnr_err _ _).trans hr)
  | analyze =>
    rcases execAnalyze_cases h with ⟨hh, -⟩ | ⟨-, hraise⟩ | ⟨-, -, -, rfl⟩
    · exact absurd hr hh
    · exact .inr hraise
    · exact .inl hr
  | srst =>
    cases h
    exact .inl rfl

/-- R204: on a running machine an access leaves ERR 0, or raises one error and does nothing else; a read that raises
answers 0. -/
theorem exec_keeps_or_raises (hr : s.err = 0) {i : Instr} (h : exec i s = .next t) :
    t.err = 0 ∨ ((∀ space off, i ≠ .hrd space off) ∧ ∃ e : ErrorCode, t = { s with err := e.code }) ∨
      ∃ space off, i = .hrd space off ∧ t = { s with err := 6, response := some 0 } := by
  cases i using Instr.portCases with
  | command c =>
    have hwrite : ∀ space off, c.toInstr ≠ .hrd space off := by cases c <;> exact nofun
    exact (exec_command_keeps_or_raises hr h).imp_right fun hraise => .inl ⟨hwrite, hraise⟩
  | hwr space off data =>
    have hwrite : ∀ space' off', Instr.hwr space off data ≠ .hrd space' off' := nofun
    rcases exec_hwr_of_running hr space off data with ⟨c, hform⟩ | ⟨e, hform⟩ | ⟨p, hform⟩ <;> rw [hform] at h
    · exact (exec_command_keeps_or_raises hr h).imp_right fun hraise => .inl ⟨hwrite, hraise⟩
    · cases h
      exact .inr (.inl ⟨hwrite, e, rfl⟩)
    · cases h
      exact .inl ((s.store_err data p).trans hr)
  | hrd space off =>
    rcases execHrd_cases h with ⟨p, -, rfl⟩ | ⟨-, hh, -⟩ | ⟨-, -, ht⟩
    · exact .inl hr
    · exact absurd hr hh
    · exact .inr (.inr ⟨space, off, rfl, ht⟩)

/-! ## Every access is served (R212) -/

theorem exec_command_completes (c : Command) (s : State) : ∃ t, exec c.toInstr s = .next t := by
  cases c <;> exact ⟨_, rfl⟩

theorem exec_completes (i : Instr) (s : State) : ∃ t, exec i s = .next t := by
  cases i using Instr.portCases with
  | command c => exact exec_command_completes c s
  | hwr space off data =>
    by_cases hr : s.err = 0
    · rcases exec_hwr_of_running hr space off data with ⟨c, hform⟩ | ⟨e, hform⟩ | ⟨p, hform⟩
      · rw [hform]
        exact exec_command_completes c s
      · exact ⟨_, hform⟩
      · exact ⟨_, hform⟩
    · rw [exec_hwr_of_halted hr]
      split
      · exact ⟨_, exec_srst s⟩
      · exact ⟨_, rfl⟩
  | hrd space off =>
    cases hp : Place.locate space off with
    | some p => exact ⟨_, exec_hrd_of_mapped hp⟩
    | none =>
      by_cases hr : s.err = 0
      · exact ⟨_, exec_hrd_of_unmapped_running hr hp⟩
      · exact ⟨_, exec_hrd_of_unmapped_halted hr hp⟩

end

/-- Settles O38: an access that leaves ERR not 0 has raised one error and done nothing else. -/
theorem errorsArePrecise : Obligations.ErrorsArePrecise := by
  intro i s t hr h herr
  rcases exec_keeps_or_raises hr h with hzero | ⟨hwrite, e, rfl⟩ | ⟨space, off, rfl, rfl⟩
  · exact absurd hzero herr
  · refine ⟨rfl, e.code_le, ?_⟩
    split
    · next space off => exact absurd rfl (hwrite space off)
    · rfl
  · exact ⟨rfl, ErrorCode.busError.code_le, rfl⟩

/-- Settles O39: the gate before the commands, the host port's own gate, and the reads. -/
theorem haltedMachineIgnoresWrites : Obligations.HaltedMachineIgnoresWrites := by
  intro s hh
  have hcommand (c : Command) (hc : c ≠ .srst) : exec c.toInstr s = .next s := exec_command_of_halted hh hc
  refine ⟨fun imm16 => hcommand (.unpack565 imm16) nofun, hcommand .decblk nofun, hcommand .decmip nofun,
    fun a b => hcommand (.psnr a b) nofun, hcommand .analyze nofun, fun space off data hother => ?ignored, ?srst,
    exec_hrd_of_halted hh⟩
  case ignored => rw [exec_hwr_of_halted hh, if_neg (isSrstWrite_iff.not.2 hother)]
  case srst => rw [exec_hwr_of_halted hh, if_pos (isSrstWrite_iff.2 ⟨rfl, rfl, rfl⟩)]

/-- Settles O40: a step that is no reset waits, or serves an access other than SRST, which leaves all but the
response. -/
theorem onlyResetLeavesHaltedCondition : Obligations.OnlyResetLeavesHaltedCondition := by
  intro s t hh h hreset hsrst
  rcases step_cases h with ⟨-, rfl⟩ | ⟨rest, hp, -⟩ | ⟨r, rest, hp, hexec⟩
  · rfl
  · exact absurd hp (hreset rest)
  · have hhalted : (s.takeEvent rest).err ≠ 0 := hh
    obtain ⟨answer, rfl⟩ := exec_frame_of_halted hhalted (decode_wellFormed r) (hsrst r rest hp) hexec
    rfl

/-- Settles O43: a step waits, resets, or serves an access, and every access is served. -/
theorem everyStepCompletes : Obligations.EveryStepCompletes := by
  intro s
  match hp : s.pending with
  | [] => exact ⟨_, step_of_no_event hp⟩
  | .reset :: rest => exact ⟨_, step_of_reset hp⟩
  | .access r :: rest =>
    rw [step_of_access hp]
    exact exec_completes (decode r) (s.takeEvent rest)

end Sys2Proof.Machine

/-! # Proofs: the external reset -/

namespace Sys2Proof.Machine

/-- Settles O3: the reset event and SRST both perform the reset on the state in which the event is served, and the
reset leaves that state just reset. -/
theorem externalResetDoesWhatSrstDoes : Obligations.ExternalResetDoesWhatSrstDoes := by
  intro s rest hreset
  have hstep : step s = .next (s.takeEvent rest).performReset := step_of_reset hreset
  have hsrst : exec .srst (s.takeEvent rest) = .next (s.takeEvent rest).performReset := exec_srst _
  exact ⟨(s.takeEvent rest).performReset, hstep, State.justReset_performReset _, hsrst⟩

end Sys2Proof.Machine
